-- ==== Sys2Proof/Word.lean ====
section
/-! DEFINITION. The words of the Skewbit 1620: bytes, device times, and the identifiers of channels, pins,
timebases, event lines and patterns (00_scope.md, "Identifiers"). -/

namespace Sys2Proof

/-- One byte of a frame (R139). -/
abbrev Byte := BitVec 8

/-- A two-byte field: a CRC (R141) or the report sequence counter (R154). -/
abbrev Half := BitVec 16

/-- A device time: a 48-bit, wrapping count of base ticks (R19). -/
abbrev Time := BitVec 48

/-- CH0–CH15. -/
abbrev ChannelId := Fin 16

/-- P0–P19. -/
abbrev PinId := Fin 20

/-- TB0–TB3. -/
abbrev TimebaseId := Fin 4

/-- E0–E7. -/
abbrev LineId := Fin 8

/-- Pattern 0 – pattern 31. -/
abbrev PatternId := Fin 32

/-- What a digital input shows at a base tick: an input pin's sample (R91), HOLD_N (R130), LRX (R139), RESET_N (R161). -/
inductive Sample where
  | low
  | high
deriving DecidableEq, Repr, Inhabited

end Sys2Proof
end

