-- ==== Sys2Proof/Config.lean ====
section
/-! DEFINITION. What is fixed for the part: capacities, time limits and cold-reset divisors; and what the outside
world and the open orders of the spec supply at each base tick (free values). -/

namespace Sys2Proof.Config

/-- Slots of the segment pool (R5). -/
def poolSlots : Nat := 256
/-- Most segments of one pattern (R2). -/
def maxSegments : Nat := 64
/-- Listener entries (R119). -/
def listenerEntries : Nat := 32
/-- Request queue capacity (R147). -/
def requestSlots : Nat := 4
/-- Reply queue capacity (R152). -/
def replySlots : Nat := 8
/-- Replay table capacity (R151). -/
def replaySlots : Nat := 8
/-- Report queue capacity (R154). -/
def reportSlots : Nat := 64
/-- Highest credit balance (R156). -/
def maxCredit : Nat := 64
/-- Where 16-bit saturating counts stop: repetitions (R52), captures (R97), lost reports (R154). -/
def countMax : Nat := 65535
/-- Where a coalesced count stops (R125). -/
def coalescedMax : Nat := 255
/-- Consecutive disagreeing samples that change the pin hold (R130). -/
def holdSamples : Nat := 100
/-- Consecutive low samples of RESET_N that start a cold reset (R161). -/
def resetSamples : Nat := 100
/-- Consecutive low samples of LRX that make a break (R140). -/
def breakSamples : Nat := 5000
/-- Base ticks without a next byte that end a frame in progress (R144). -/
def gapLimit : Nat := 100001
/-- Base ticks of one character on the link (R139). -/
def characterTicks : Nat := 500
/-- Base ticks of one bit on the link (R139). -/
def bitTicks : Nat := 50
/-- From the first low sample of a character to its first data bit's sample (R139). -/
def firstBitTick : Nat := 75
/-- From the first low sample of a character to its stop bit's sample (R139). -/
def stopBitTick : Nat := 475
/-- The first byte of every frame (R142, R162). -/
def sync : Byte := 0xB4
/-- Family code of the QUERY_DEVICE reply (R158). -/
def familyCode : Byte := 0x5B
/-- Revision of the QUERY_DEVICE reply (R158). -/
def revision : Byte := 0x02

/-- The divisor a timebase takes at cold reset (R30). -/
def coldDivisor (t : TimebaseId) : Nat :=
  match t.val with
  | 0 => 1
  | 1 => 100
  | 2 => 1000
  | _ => 10000

/-- What one base tick meets from outside the part, and the choices the spec leaves open at it.
`order` picks the order in which the units that act at one base tick are taken (R24, R28, R49, R70 to R72, R88, R112,
R117, R126, R137, R148, R153, R159, R160: "either may be taken first"); `gapFirst` picks R155's order. -/
structure TickInputs where
  /-- The supply is up (R161). -/
  power : Bool
  /-- RESET_N (R161). -/
  resetN : Sample
  /-- HOLD_N (R130). -/
  holdN : Sample
  /-- LRX (R139). -/
  lrx : Sample
  /-- What the outside circuits put on P0–P19 (R91). -/
  pins : Vector Sample 20
  /-- The order of the units at this base tick, as successive picks from those that remain. -/
  order : List Nat
  /-- R60, R154: the order in which the reports of this base tick join the report queue, as successive picks among the ticks that raised
  them and the link unit's own turns. -/
  reportOrder : List Nat
  /-- R155: the GAP takes the freed slot before any new report of this base tick. -/
  gapFirst : Bool
deriving DecidableEq, Repr, Inhabited

/-- FREE VALUE (notes/assumptions/2.md): the inputs and the open choices of a base tick that nobody scripted. Nothing is known of them. -/
opaque freeInputs : Nat → TickInputs

end Sys2Proof.Config
end

