-- ==== Sys2Proof/Syntax.lean ====
section
/-! DEFINITION. The commands of the part: one constructor for each row of spec/opcode_table.json. -/

namespace Sys2Proof

/-- One command. A request row carries the frame's TAG and BODY as the host sent them (its KIND is the row's, R164), so
that every malformed body can be written too; a row of the pins, the link or a channel tick carries what the outside
shows at it. -/
inductive Instr where
  -- requests of the link unit, the timebase unit and the hold unit
  | queryDevice (tag : Byte) (body : List Byte)
  | readTime (tag : Byte) (body : List Byte)
  | grant (tag : Byte) (body : List Byte)
  | deviceReset (tag : Byte) (body : List Byte)
  | setTimebase (tag : Byte) (body : List Byte)
  | hold (tag : Byte) (body : List Byte)
  | release (tag : Byte) (body : List Byte)
  -- requests of the pattern store
  | definePattern (tag : Byte) (body : List Byte)
  | deletePattern (tag : Byte) (body : List Byte)
  | queryPattern (tag : Byte) (body : List Byte)
  -- requests of the channel array
  | bind (tag : Byte) (body : List Byte)
  | unbind (tag : Byte) (body : List Byte)
  | configureOutput (tag : Byte) (body : List Byte)
  | configureInput (tag : Byte) (body : List Byte)
  | freeze (tag : Byte) (body : List Byte)
  | clearChannel (tag : Byte) (body : List Byte)
  | queryChannel (tag : Byte) (body : List Byte)
  | assign (tag : Byte) (body : List Byte)
  | unstage (tag : Byte) (body : List Byte)
  | start (tag : Byte) (body : List Byte)
  | stop (tag : Byte) (body : List Byte)
  -- requests of the event fabric
  | setEmitter (tag : Byte) (body : List Byte)
  | clearEmitter (tag : Byte) (body : List Byte)
  | addListener (tag : Byte) (body : List Byte)
  | removeListener (tag : Byte) (body : List Byte)
  | queryFabric (tag : Byte) (body : List Byte)
  /-- A valid request of an unassigned KIND (R149). -/
  | badKind (kind tag : Byte) (body : List Byte)
  -- the receiver, the transmitter and the resets
  /-- The second CRC byte arrives (R145). -/
  | frameEnd (byte : Byte)
  /-- A LEN byte of 0, 1 or 251–255 arrives (R143). -/
  | badLen (byte : Byte)
  /-- The frame in progress has waited too long for its next byte (R144). -/
  | gapTimeout
  /-- A break on LRX ends (R159). -/
  | linkReset
  /-- The transmitter is free and takes a frame (R153); `gapFirst` is R155's open order. -/
  | transmitterFree (gapFirst : Bool)
  /-- A cold reset, from its start to its end, with what HOLD_N and LRX show at the base tick at which it ends (R161, R138). -/
  | coldReset (holdN lrx : Sample)
  /-- The HOLD_N filter run count reaches 100 (R130). -/
  | pinHoldChange
  -- the ticks of one channel; `sample` is what its pin shows at the tick (R91)
  | channelTick (ch : ChannelId) (sample : Sample)
  /-- The channel's tick, at which a pending delivery is applied (R126). -/
  | pendingDeliveryApplied (ch : ChannelId) (sample : Sample)
  /-- The channel's tick, at which it enters RUNNING by NEXT or AT (R43). -/
  | enterRunning (ch : ChannelId) (sample : Sample)
  /-- The channel's tick, at which its segment ends (R55). -/
  | segmentEnd (ch : ChannelId) (sample : Sample)
  /-- The channel's tick, at which an edge is accepted (R95). -/
  | edgeAccepted (ch : ChannelId) (sample : Sample)
  /-- The channel's tick, at which its timeout window expires (R101). -/
  | timeoutExpiry (ch : ChannelId) (sample : Sample)
  -- the serial line
  /-- A byte arrives on LRX (R142). -/
  | byteArrives (byte : Byte)
  /-- A character whose stop bit is sampled low (R139). -/
  | framingError
deriving DecidableEq, Repr

end Sys2Proof
end

