-- ==== Sys2Proof/Machine/State.lean ====
section
/-! DEFINITION. The state of the Skewbit 1620 as plain data, block by block as 00_scope.md lists them ("How the part is
built"), and its value right after cold reset. -/

namespace Sys2Proof.Machine

/-! ### Enumerations (R163's code table) -/

/-- What is on a pin: driven low, driven high, or not driven (00_scope.md, "Levels"). -/
inductive Level where
  | low
  | high
  | float
deriving DecidableEq, Repr

/-- The rest level of a pattern (R4). -/
inductive RestLevel where
  | low
  | high
  | float
  | last
deriving DecidableEq, Repr

/-- Swap point of a staged pattern (R74). -/
inductive SwapPoint where
  | cycle
  | segment
deriving DecidableEq, Repr

/-- States of a bound channel (R32); a FREE channel has no record. -/
inductive Activity where
  | idle
  | waiting
  | running
  | done
  | halted
deriving DecidableEq, Repr

/-- Why a channel last entered HALTED (R34). -/
inductive HaltReason where
  | none
  | request
  | linked
  | hold
  | timeout
deriving DecidableEq, Repr

/-- Start condition, with the at-time that NEXT and AT hold (R32, R42). -/
inductive StartCondition where
  | next (time : Time)
  | at (time : Time)
  | trigger
deriving DecidableEq, Repr

/-- Edge select of an input channel (R95). -/
inductive EdgeSelect where
  | rise
  | fall
  | both
deriving DecidableEq, Repr

/-- Timeout action (R101, R102). -/
inductive TimeoutAction where
  | report
  | halt
deriving DecidableEq, Repr

/-- Capture mode (R96). -/
inductive CaptureMode where
  | plain
  | interval
deriving DecidableEq, Repr

/-- Event kinds (chapter 7). -/
inductive EventKind where
  | begin
  | mark
  | cycle
  | swap
  | done
  | edge
  | timeout
  | limit
deriving DecidableEq, Repr

/-- Actions a listener asks for (chapter 7). -/
inductive Action where
  | start
  | stop
  | restart
  | swap
  | stamp
deriving DecidableEq, Repr

/-- The two values of the pin hold (chapter 8). -/
inductive PinHold where
  | deasserted
  | asserted
deriving DecidableEq, Repr

/-- Causes of a SWAP report (R80, R42). -/
inductive SwapCause where
  | segment
  | cycle
  | action
  | start
deriving DecidableEq, Repr

/-- Causes of a HOLD report (R132, R134). -/
inductive HoldCause where
  | pin
  | request
deriving DecidableEq, Repr

/-- Reasons of a NOTICE (R146). -/
inductive NoticeReason where
  | coldStart
  | linkReset
  | crc
  | length
  | gapTimeout
  | kind
deriving DecidableEq, Repr

/-- The entries a STATE report tells of: the new state with its reason (R34, R169). -/
inductive StateChange where
  | doneFinished
  | doneLimit
  | haltedLinked
  | haltedHold
  | haltedTimeout
deriving DecidableEq, Repr

/-- Capture kinds; LINKED carries the coalesced count (R105, R170). -/
inductive CaptureKind where
  | rise
  | fall
  | linked (coalesced : Nat)
  | timeout
deriving DecidableEq, Repr

/-- Status codes of replies (chapter 10.4). -/
inductive Status where
  | ok
  | badLength
  | badKind
  | badField
  | badState
  | badRole
  | conflict
  | noSpace
  | notFound
  | inUse
  | frozen
  | held
  | late
  | queueFull
deriving DecidableEq, Repr

/-! ### Pattern store (chapter 1) -/

/-- R1: one step of a pattern. The duration is the count itself, 1–65536. -/
structure Segment where
  duration : Nat
  level : Level
  mark : Bool
deriving DecidableEq, Repr

/-- The three fields a DEFINED row holds beside its user count (R2). Repeat count 0 is endless (R3). -/
structure Pattern where
  segments : List Segment
  repeatCount : Nat
  rest : RestLevel
deriving DecidableEq, Repr

/-- R2: a row; `pattern` is absent in an EMPTY row. -/
structure PatternRow where
  pattern : Option Pattern
  users : Nat
deriving DecidableEq, Repr

/-- The 32 rows, the free-slot count and the number of DEFINED rows (R2, R5). -/
structure PatternStore where
  rows : Vector PatternRow 32
  free : Nat
  defined : Nat
deriving DecidableEq, Repr

/-! ### Timebase unit (chapter 2) -/

/-- MODEL'S OWN FIELD (notes/assumptions/11.md): whether the present base tick is a tick of the timebase, and whether a channel has
taken it already. -/
inductive TickMark where
  | noTick
  | due
  | taken
deriving DecidableEq, Repr

/-- R23: divisor, 1–65536, and phase counter. -/
structure Timebase where
  divisor : Nat
  phase : Nat
  tick : TickMark
deriving DecidableEq, Repr

/-! ### Channel array (chapters 3 to 6) -/

/-- A pending delivery; its line is its place in the record (R124). -/
structure Delivery where
  action : Action
  firstTime : Time
  count : Nat
deriving DecidableEq, Repr

/-- R74: the staged field. -/
structure Staged where
  pattern : PatternId
  point : SwapPoint
deriving DecidableEq, Repr

/-- The output-role fields (R32, R52). -/
structure OutputRole where
  idleLevel : Level
  active : Option PatternId
  staged : Option Staged
  segIndex : Nat
  ticksLeft : Option Nat
  reps : Nat
  doneLevel : Option Level
deriving DecidableEq, Repr

/-- A qualification in progress (R93). -/
structure Qualification where
  candidate : Sample
  start : Time
  count : Nat
deriving DecidableEq, Repr

/-- The input-role fields (R32, R90). -/
structure InputRole where
  edgeSelect : EdgeSelect
  window : Nat
  timeoutWindow : Nat
  timeoutAction : TimeoutAction
  mode : CaptureMode
  limit : Nat
  accepted : Option Sample
  qual : Option Qualification
  captures : Nat
  lastCapture : Option Time
  timeoutLeft : Option Nat
deriving DecidableEq, Repr

/-- A bound channel's role with that role's fields. -/
inductive Role where
  | output (o : OutputRole)
  | input (i : InputRole)
deriving DecidableEq, Repr

/-- The record of a bound channel (R32). At most one pending delivery for each line. -/
structure Channel where
  activity : Activity
  pin : PinId
  timebase : TimebaseId
  frozen : Bool
  startCondition : StartCondition
  rearm : Bool
  haltReason : HaltReason
  deliveries : Vector (Option Delivery) 8
  role : Role
deriving DecidableEq, Repr

/-! ### Event fabric (chapter 7) -/

/-- R115: an emitter entry; its line is its place in the table. -/
structure Emitter where
  source : ChannelId
  kind : EventKind
  report : Bool
deriving DecidableEq, Repr

/-- The emitter table, one place a line (R115), and the listener table, held as the action each line asks of each
channel, since no two entries share line and target and the entries have no order (R119). -/
structure Fabric where
  emitters : Vector (Option Emitter) 8
  listeners : Vector (Vector (Option Action) 16) 8
deriving DecidableEq, Repr

/-! ### Hold unit (chapter 8) -/

/-- Pin hold, filter run count and hold request flag (R130, R131). -/
structure HoldUnit where
  pinHold : PinHold
  runCount : Nat
  request : Bool
deriving DecidableEq, Repr

/-! ### Link unit (chapter 9) -/

/-- A request waiting for the executor. Its CRC is the CRC of these bytes, since only a frame whose CRC agrees is a
request (R145). -/
structure Request where
  kind : Byte
  tag : Byte
  body : List Byte
deriving DecidableEq, Repr

/-- A frame the part sends, less SYNC, LEN and CRC, which follow from it (R162). -/
structure Frame where
  kind : Byte
  tag : Byte
  body : List Byte
deriving DecidableEq, Repr

/-- R151: an entry of the replay table. -/
structure ReplayEntry where
  tag : Byte
  crc : Half
  reply : Frame
deriving DecidableEq, Repr

/-- What a report says after its sequence number (R169, R170). -/
inductive ReportBody where
  | capture (ch : ChannelId) (kind : CaptureKind) (number : Nat) (time : Time) (interval : Option Time)
  | state (ch : ChannelId) (change : StateChange) (time : Time)
  | swap (ch : ChannelId) (old : Option PatternId) (new : PatternId) (cause : SwapCause) (time : Time)
  | line (line : LineId) (source : ChannelId) (kind : EventKind) (time : Time)
  | hold (active : Bool) (cause : HoldCause) (time : Time)
  | notice (reason : NoticeReason) (time : Time)
  | gap (lost : Nat)
deriving DecidableEq, Repr

/-- A report in the report queue with its sequence number (R154). -/
structure Report where
  seq : Half
  body : ReportBody
deriving DecidableEq, Repr

/-- R142: the receiver's four states, with what it has read of the frame. -/
inductive Receiver where
  | hunting
  | length
  | content (len : Nat) (got : List Byte)
  | trailer (content : List Byte) (crcHigh : Option Byte)
deriving DecidableEq, Repr

/-- R139: the character the receiver is sampling: none, one with its age in base ticks and the data bits sampled so far,
or, after a framing error, waiting for LRX high. -/
inductive CharSampler where
  | idle
  | sampling (age : Nat) (bits : List Bool)
  | waitHigh
deriving DecidableEq, Repr

/-- The frame in transmission: its bytes and the base ticks since its first start bit (R139, R153). -/
structure Transmission where
  bytes : List Byte
  elapsed : Nat
deriving DecidableEq, Repr

/-- The link unit (chapter 9). -/
structure Link where
  receiver : Receiver
  /-- Base ticks since the last byte of the frame in progress (R144). -/
  gapTimer : Nat
  sampler : CharSampler
  /-- Consecutive low samples of LRX, stopping at 5,000 (R140). -/
  lowRun : Nat
  requests : List Request
  replies : List Frame
  replay : List ReplayEntry
  reports : List Report
  /-- MODEL'S OWN FIELD (notes/assumptions/12.md): R155's GAP of this base tick still has to be tried. -/
  gapDue : Bool
  credit : Nat
  lost : Nat
  nextSeq : Half
  transmission : Option Transmission
deriving DecidableEq, Repr

/-! ### The machine -/

/-- Everything the spec gives the part, what it meets from outside, and the queue of waiting commands. -/
structure State where
  /-- Device time (R19). -/
  time : Time
  timebases : Vector Timebase 4
  store : PatternStore
  /-- Channel records; a FREE channel has none (R32). -/
  channels : Vector (Option Channel) 16
  /-- The pin binding table (R33). -/
  pinTable : Vector (Option ChannelId) 20
  fabric : Fabric
  hold : HoldUnit
  link : Link
  /-- The part is in cold reset (R161). -/
  inColdReset : Bool
  /-- Consecutive low samples of RESET_N (R161). -/
  resetRun : Nat
  /-- MODEL'S OWN FIELD (notes/assumptions/2.md): what the coming base ticks meet, nearest first. -/
  script : List Config.TickInputs
  /-- MODEL'S OWN FIELD (notes/assumptions/2.md): how many unscripted base ticks there have been. -/
  unscripted : Nat
  /-- The commands waiting, first in first out. -/
  pending : List Instr
deriving DecidableEq, Repr

/-- Nothing in the spec stops the part, and no meaning ends in a fault: this type has no constructor. -/
inductive Fault where
deriving DecidableEq, Repr

/-- Reasons a command has no meaning. -/
inductive Refusal where
  /-- Raised by `exec` alone, for a command not modelled yet. Safe: the machine stops. No arm raises it. -/
  | notModelled (mnemonic : String)
deriving DecidableEq, Repr

/-! ### Cold reset -/

/-- R17. -/
def PatternStore.empty : PatternStore :=
  { rows := Vector.replicate 32 { pattern := none, users := 0 }, free := Config.poolSlots, defined := 0 }

/-- R30: phase counter 0 at the base tick of the reset, which is not a tick. -/
def Timebase.cold (t : TimebaseId) : Timebase :=
  { divisor := Config.coldDivisor t, phase := 0, tick := .noTick }

/-- R128. -/
def Fabric.empty : Fabric :=
  { emitters := Vector.replicate 8 none, listeners := Vector.replicate 8 (Vector.replicate 16 none) }

/-- The link unit while the part is in cold reset (R161): everything empty, nothing sent. -/
def Link.cold : Link :=
  { receiver := .hunting, gapTimer := 0, sampler := .idle, lowRun := 0, requests := [], replies := [], replay := [],
    reports := [], gapDue := false, credit := 0, lost := 0, nextSeq := 0, transmission := none }

/-- Every block at its cold-reset value (R17, R30, R50, R128, R138, R161), without the COLD_START NOTICE. -/
def State.cold : State :=
  { time := 0
    timebases := Vector.ofFn Timebase.cold
    store := PatternStore.empty
    channels := Vector.replicate 16 none
    pinTable := Vector.replicate 20 none
    fabric := Fabric.empty
    hold := { pinHold := .deasserted, runCount := 0, request := false }
    link := Link.cold
    inColdReset := false
    resetRun := 0
    script := []
    unscripted := 0
    pending := [] }

/-- Right after cold reset (R161): device time 0, the COLD_START NOTICE of sequence number 0 waiting, the counter at 1.
HOLD_N and LRX are taken as high at that base tick (DESIGN CHOICE, notes/assumptions/9.md), so the pin hold is DEASSERTED (R138). -/
def State.reset : State :=
  { State.cold with
    link := { Link.cold with reports := [{ seq := 0, body := .notice .coldStart 0 }], nextSeq := 1 } }

end Sys2Proof.Machine
end

