-- ==== Sys2Proof/Machine/Flags.lean ====
section
/-! DEFINITION. What the state shows without storing it: the comparison of device times, hold active, and the levels of
the output pins ATTN_N, LTX and P0–P19. -/

namespace Sys2Proof.Machine

/-- R21: `t` is ahead of `now`. -/
def ahead (t now : Time) : Bool :=
  decide (1 ≤ (t - now).toNat ∧ (t - now).toNat < 2 ^ 47)

/-- R131. -/
def State.holdActive (s : State) : Bool :=
  s.hold.request || decide (s.hold.pinHold = .asserted)

/-- R157: ATTN_N is low while reports wait and the credit balance is 0. In cold reset the queue is empty, so it is high (R161). -/
def State.attnN (s : State) : Sample :=
  if s.link.reports ≠ [] ∧ s.link.credit = 0 then .low else .high

/-- One bit of a character on the line, by its place in the character: start bit, eight data bits from the least significant, stop bit (R139). -/
def characterBit (b : Byte) (place : Nat) : Sample :=
  if place = 0 then .low
  else if place ≤ 8 then (if b.getLsbD (place - 1) then .high else .low)
  else .high

/-- R139: LTX is high while nothing is sent; a frame's characters follow each other with no idle time. -/
def State.ltx (s : State) : Sample :=
  match s.link.transmission with
  | none => .high
  | some t =>
    match t.bytes[t.elapsed / Config.characterTicks]? with
    | none => .high
    | some b => characterBit b (t.elapsed % Config.characterTicks / Config.bitTicks)

/-- The pattern an output channel plays (R2). -/
def State.activePattern (s : State) (o : OutputRole) : Option Pattern :=
  match o.active with
  | none => none
  | some p => s.store.rows[p].pattern

/-- R33, R62 to R64: the level an output channel puts on its pin. -/
def State.outputLevel (s : State) (c : Channel) (o : OutputRole) : Level :=
  match c.activity with
  | .running =>
    match s.activePattern o with
    | none => o.idleLevel
    | some p =>
      match p.segments[o.segIndex]? with
      | none => o.idleLevel
      | some seg => seg.level
  | .done => o.doneLevel.getD o.idleLevel
  | .idle | .waiting | .halted => o.idleLevel

/-- R33: what the part drives on a timing pin. -/
def State.pinLevel (s : State) (p : PinId) : Level :=
  match s.pinTable[p] with
  | none => .float
  | some ch =>
    match s.channels[ch] with
    | none => .float
    | some c =>
      match c.role with
      | .input _ => .float
      | .output o => s.outputLevel c o

end Sys2Proof.Machine
end

