-- ==== Sys2Proof/Machine/Operands.lean ====
section
/-! DEFINITION. The fields of frames: reading a request's fields, writing the fields of replies and reports (R163), and
which command a request is (R164). Reading answers `none` where the byte names nothing (R163). -/

namespace Sys2Proof.Machine

/-! ### Numbers (R163: most significant byte first) -/

/-- A number in two bytes. -/
def bytes2 (n : Nat) : List Byte := [BitVec.ofNat 8 (n / 256), BitVec.ofNat 8 n]

/-- The number in two bytes. -/
def number2 (hi lo : Byte) : Nat := hi.toNat * 256 + lo.toNat

/-- A device time in six bytes. -/
def timeBytes (t : Time) : List Byte :=
  [t.extractLsb' 40 8, t.extractLsb' 32 8, t.extractLsb' 24 8, t.extractLsb' 16 8, t.extractLsb' 8 8, t.extractLsb' 0 8]

/-- The device time in six bytes. -/
def timeOf (b5 b4 b3 b2 b1 b0 : Byte) : Time := b5 ++ b4 ++ b3 ++ b2 ++ b1 ++ b0

/-- A number in one byte. -/
def byte1 (n : Nat) : Byte := BitVec.ofNat 8 n

/-- A flag byte: 0x00 clear, 0x01 set. -/
def flagByte (b : Bool) : Byte := if b then 1 else 0

/-- A flag byte of a request. -/
def flagOf (b : Byte) : Option Bool := if b = 0 then some false else if b = 1 then some true else none

/-- An identifier below `n`. -/
def idOf (n : Nat) (b : Byte) : Option (Fin n) := if h : b.toNat < n then some ⟨b.toNat, h⟩ else none

/-- A byte that carries none (0xFF) where the field is absent. -/
def orNone {α : Type} (f : α → Byte) (x : Option α) : Byte :=
  match x with
  | none => 0xFF
  | some a => f a

/-- An identifier's byte. -/
def idByte {n : Nat} (i : Fin n) : Byte := byte1 i.val

/-! ### Enumerated fields (R163's table) -/

def levelByte : Level → Byte
  | .low => 0
  | .high => 1
  | .float => 2

def levelOf (b : Byte) : Option Level :=
  if b = 0 then some .low else if b = 1 then some .high else if b = 2 then some .float else none

def sampleByte : Sample → Byte
  | .low => 0
  | .high => 1

def restByte : RestLevel → Byte
  | .low => 0
  | .high => 1
  | .float => 2
  | .last => 3

def restOf (b : Byte) : Option RestLevel :=
  if b = 0 then some .low else if b = 1 then some .high else if b = 2 then some .float
  else if b = 3 then some .last else none

def activityByte : Activity → Byte
  | .idle => 1
  | .waiting => 2
  | .running => 3
  | .done => 4
  | .halted => 5

def conditionByte : StartCondition → Byte
  | .next _ => 0
  | .at _ => 1
  | .trigger => 2

def haltByte : HaltReason → Byte
  | .none => 0
  | .request => 1
  | .linked => 2
  | .hold => 3
  | .timeout => 4

def swapPointByte : SwapPoint → Byte
  | .cycle => 0
  | .segment => 1

def swapPointOf (b : Byte) : Option SwapPoint :=
  if b = 0 then some .cycle else if b = 1 then some .segment else none

def edgeByte : EdgeSelect → Byte
  | .rise => 0
  | .fall => 1
  | .both => 2

def edgeOf (b : Byte) : Option EdgeSelect :=
  if b = 0 then some .rise else if b = 1 then some .fall else if b = 2 then some .both else none

def timeoutActionByte : TimeoutAction → Byte
  | .report => 0
  | .halt => 1

def timeoutActionOf (b : Byte) : Option TimeoutAction :=
  if b = 0 then some .report else if b = 1 then some .halt else none

def modeByte : CaptureMode → Byte
  | .plain => 0
  | .interval => 1

def modeOf (b : Byte) : Option CaptureMode :=
  if b = 0 then some .plain else if b = 1 then some .interval else none

def eventByte : EventKind → Byte
  | .begin => 0
  | .mark => 1
  | .cycle => 2
  | .swap => 3
  | .done => 4
  | .edge => 5
  | .timeout => 6
  | .limit => 7

def eventOf (b : Byte) : Option EventKind :=
  if b = 0 then some .begin else if b = 1 then some .mark else if b = 2 then some .cycle
  else if b = 3 then some .swap else if b = 4 then some .done else if b = 5 then some .edge
  else if b = 6 then some .timeout else if b = 7 then some .limit else none

def actionByte : Action → Byte
  | .start => 0
  | .stop => 1
  | .restart => 2
  | .swap => 3
  | .stamp => 4

def actionOf (b : Byte) : Option Action :=
  if b = 0 then some .start else if b = 1 then some .stop else if b = 2 then some .restart
  else if b = 3 then some .swap else if b = 4 then some .stamp else none

def pinHoldByte : PinHold → Byte
  | .deasserted => 0
  | .asserted => 1

def swapCauseByte : SwapCause → Byte
  | .segment => 0
  | .cycle => 1
  | .action => 2
  | .start => 3

def holdCauseByte : HoldCause → Byte
  | .pin => 0
  | .request => 1

def noticeByte : NoticeReason → Byte
  | .coldStart => 0
  | .linkReset => 1
  | .crc => 2
  | .length => 3
  | .gapTimeout => 4
  | .kind => 5

/-- The new state and the STATE reason of a STATE report (R169). -/
def stateChangeBytes : StateChange → List Byte
  | .doneFinished => [4, 0]
  | .doneLimit => [4, 1]
  | .haltedLinked => [5, 2]
  | .haltedHold => [5, 3]
  | .haltedTimeout => [5, 4]

def captureKindByte : CaptureKind → Byte
  | .rise => 0
  | .fall => 1
  | .linked _ => 2
  | .timeout => 3

/-- Status codes (chapter 10.4). -/
def statusByte : Status → Byte
  | .ok => 0x00
  | .badLength => 0x01
  | .badKind => 0x02
  | .badField => 0x03
  | .badState => 0x04
  | .badRole => 0x05
  | .conflict => 0x06
  | .noSpace => 0x07
  | .notFound => 0x08
  | .inUse => 0x09
  | .frozen => 0x0A
  | .held => 0x0B
  | .late => 0x0C
  | .queueFull => 0x0D

/-! ### Segments (R163, R164) -/

/-- A segment in three bytes: duration minus one, then the mark flag in bit 7 over the level in bits 1–0. -/
def segmentBytes (g : Segment) : List Byte :=
  bytes2 (g.duration - 1) ++ [(if g.mark then 0x80 else 0x00) ||| levelByte g.level]

/-- One segment; its third byte names nothing when any of bits 6–2 is set or its level bits are 3. -/
def segmentOf (d1 d0 b : Byte) : Option Segment :=
  match levelOf (b &&& 0x7F) with
  | none => none
  | some l => some { duration := number2 d1 d0 + 1, level := l, mark := b.msb }

/-- The segments of a DEFINE_PATTERN body, three bytes each. -/
def segmentsOf : List Byte → Option (List Segment)
  | [] => some []
  | d1 :: d0 :: b :: rest =>
    match segmentOf d1 d0 b, segmentsOf rest with
    | some g, some gs => some (g :: gs)
    | _, _ => none
  | _ => none

/-! ### Report bodies (R169, R170) -/

def reportKindByte : ReportBody → Byte
  | .capture .. => 0xC1
  | .state .. => 0xC2
  | .swap .. => 0xC3
  | .line .. => 0xC4
  | .hold .. => 0xC5
  | .notice .. => 0xC6
  | .gap .. => 0xC7

/-- The part of a CAPTURE report that depends on its flag and kind (R170). -/
def captureTail (kind : CaptureKind) (interval : Option Time) : List Byte :=
  (match interval with
    | none => [0]
    | some t => 1 :: timeBytes t) ++
  (match kind with
    | .linked n => [byte1 n]
    | _ => [])

/-- A report's fields after its sequence number. -/
def reportFields : ReportBody → List Byte
  | .capture ch kind number time interval =>
    [idByte ch, captureKindByte kind] ++ bytes2 number ++ timeBytes time ++ captureTail kind interval
  | .state ch change time => [idByte ch] ++ stateChangeBytes change ++ timeBytes time
  | .swap ch old new cause time => [idByte ch, orNone idByte old, idByte new, swapCauseByte cause] ++ timeBytes time
  | .line line source kind time => [idByte line, idByte source, eventByte kind] ++ timeBytes time
  | .hold active cause time => [flagByte active, holdCauseByte cause] ++ timeBytes time
  | .notice reason time => noticeByte reason :: timeBytes time
  | .gap lost => bytes2 lost

/-- The frame of a report: its kind code, tag 0x00, and its body, which begins with the sequence number (R162, R169). -/
def reportFrame (r : Report) : Frame :=
  { kind := reportKindByte r.body, tag := 0, body := bytes2 r.seq.toNat ++ reportFields r.body }

/-! ### The channel record in a reply (R168) -/

/-- One pending delivery. -/
def deliveryBytes (l : LineId) (d : Delivery) : List Byte :=
  [idByte l, actionByte d.action] ++ timeBytes d.firstTime ++ [byte1 d.count]

/-- The event lines in ascending order. -/
def lines : List LineId := [0, 1, 2, 3, 4, 5, 6, 7]

/-- The channels in ascending order. -/
def channelIds : List ChannelId := [0, 1, 2, 3, 4, 5, 6, 7, 8, 9, 10, 11, 12, 13, 14, 15]

/-- The pending deliveries in ascending line order. -/
def pendingDeliveries (c : Channel) : List (LineId × Delivery) :=
  lines.filterMap fun l => (c.deliveries[l]).map fun d => (l, d)

/-- An optional field behind a presence flag, `width` zero bytes where it is absent. -/
def presence {α : Type} (width : Nat) (f : α → List Byte) (x : Option α) : List Byte :=
  match x with
  | none => 0 :: List.replicate width 0
  | some a => 1 :: f a

def outputRoleBytes (o : OutputRole) : List Byte :=
  [levelByte o.idleLevel, orNone idByte o.active, orNone (fun g => idByte g.pattern) o.staged,
    orNone (fun g => swapPointByte g.point) o.staged, byte1 o.segIndex] ++
  presence 2 (fun n => bytes2 (n - 1)) o.ticksLeft ++ bytes2 o.reps ++ [orNone levelByte o.doneLevel]

def qualificationBytes (q : Option Qualification) : List Byte :=
  match q with
  | none => [0, 0xFF] ++ List.replicate 8 0
  | some q => [1, sampleByte q.candidate] ++ timeBytes q.start ++ bytes2 q.count

/-- The six configuration fields of an input channel (R111, R166). -/
def inputConfigBytes (i : InputRole) : List Byte :=
  [edgeByte i.edgeSelect] ++ bytes2 i.window ++ bytes2 i.timeoutWindow ++
  [timeoutActionByte i.timeoutAction, modeByte i.mode] ++ bytes2 i.limit

def inputRoleBytes (i : InputRole) : List Byte :=
  inputConfigBytes i ++ [orNone sampleByte i.accepted] ++ qualificationBytes i.qual ++ bytes2 i.captures ++
  presence 6 timeBytes i.lastCapture ++ presence 2 bytes2 i.timeoutLeft

def roleByte : Role → Byte
  | .output _ => 0
  | .input _ => 1

def startConditionBytes : StartCondition → List Byte
  | .next t => timeBytes t
  | .at t => timeBytes t
  | .trigger => []

/-- The three parts of a bound channel's record, after the status byte (R168). -/
def channelBytes (ch : ChannelId) (c : Channel) : List Byte :=
  [idByte ch, activityByte c.activity, roleByte c.role, idByte c.pin, idByte c.timebase, flagByte c.frozen,
    conditionByte c.startCondition, flagByte c.rearm, haltByte c.haltReason] ++ startConditionBytes c.startCondition ++
  [byte1 (pendingDeliveries c).length] ++ (pendingDeliveries c).flatMap (fun ld => deliveryBytes ld.1 ld.2) ++
  (match c.role with
    | .output o => outputRoleBytes o
    | .input i => inputRoleBytes i)

/-! ### The fabric's tables in a reply (R167) -/

def emitterBytes (e : Option Emitter) : List Byte :=
  match e with
  | none => [0, 0xFF, 0, 0]
  | some e => [1, idByte e.source, eventByte e.kind, flagByte e.report]

/-- The listener entries, sorted by line and then by target. -/
def Fabric.entries (f : Fabric) : List (LineId × ChannelId × Action) :=
  lines.flatMap fun l => channelIds.filterMap fun t => (f.listeners[l][t]).map fun a => (l, t, a)

def listenerBytes (e : LineId × ChannelId × Action) : List Byte :=
  [idByte e.1, idByte e.2.1, actionByte e.2.2]

/-! ### Request kinds (R164) -/

/-- The command a request of this KIND is; `badKind` where KIND is no assigned request code. -/
def Request.command (r : Request) : Instr :=
  match r.kind.toNat with
  | 0x01 => .queryDevice r.tag r.body
  | 0x02 => .readTime r.tag r.body
  | 0x03 => .grant r.tag r.body
  | 0x04 => .deviceReset r.tag r.body
  | 0x05 => .setTimebase r.tag r.body
  | 0x06 => .hold r.tag r.body
  | 0x07 => .release r.tag r.body
  | 0x10 => .definePattern r.tag r.body
  | 0x11 => .deletePattern r.tag r.body
  | 0x12 => .queryPattern r.tag r.body
  | 0x20 => .bind r.tag r.body
  | 0x21 => .unbind r.tag r.body
  | 0x22 => .configureOutput r.tag r.body
  | 0x23 => .configureInput r.tag r.body
  | 0x24 => .freeze r.tag r.body
  | 0x25 => .clearChannel r.tag r.body
  | 0x26 => .queryChannel r.tag r.body
  | 0x28 => .assign r.tag r.body
  | 0x29 => .unstage r.tag r.body
  | 0x2A => .start r.tag r.body
  | 0x2B => .stop r.tag r.body
  | 0x30 => .setEmitter r.tag r.body
  | 0x31 => .clearEmitter r.tag r.body
  | 0x32 => .addListener r.tag r.body
  | 0x33 => .removeListener r.tag r.body
  | 0x34 => .queryFabric r.tag r.body
  | _ => .badKind r.kind r.tag r.body

/-- The assigned request codes. -/
def assignedKinds : List Byte :=
  [0x01, 0x02, 0x03, 0x04, 0x05, 0x06, 0x07, 0x10, 0x11, 0x12, 0x20, 0x21, 0x22, 0x23, 0x24, 0x25, 0x26, 0x28, 0x29,
    0x2A, 0x2B, 0x30, 0x31, 0x32, 0x33, 0x34]

/-- KIND is an assigned request code. -/
def assigned (kind : Byte) : Bool := assignedKinds.contains kind

/-- The KIND of a reply (R150). -/
def replyKind (kind : Byte) : Byte := if assigned kind then kind + 0x80 else 0x80

/-- The request of a request command, with its KIND; none for the other rows. -/
def requestOf : Instr → Option Request
  | .queryDevice tag body => some ⟨0x01, tag, body⟩
  | .readTime tag body => some ⟨0x02, tag, body⟩
  | .grant tag body => some ⟨0x03, tag, body⟩
  | .deviceReset tag body => some ⟨0x04, tag, body⟩
  | .setTimebase tag body => some ⟨0x05, tag, body⟩
  | .hold tag body => some ⟨0x06, tag, body⟩
  | .release tag body => some ⟨0x07, tag, body⟩
  | .definePattern tag body => some ⟨0x10, tag, body⟩
  | .deletePattern tag body => some ⟨0x11, tag, body⟩
  | .queryPattern tag body => some ⟨0x12, tag, body⟩
  | .bind tag body => some ⟨0x20, tag, body⟩
  | .unbind tag body => some ⟨0x21, tag, body⟩
  | .configureOutput tag body => some ⟨0x22, tag, body⟩
  | .configureInput tag body => some ⟨0x23, tag, body⟩
  | .freeze tag body => some ⟨0x24, tag, body⟩
  | .clearChannel tag body => some ⟨0x25, tag, body⟩
  | .queryChannel tag body => some ⟨0x26, tag, body⟩
  | .assign tag body => some ⟨0x28, tag, body⟩
  | .unstage tag body => some ⟨0x29, tag, body⟩
  | .start tag body => some ⟨0x2A, tag, body⟩
  | .stop tag body => some ⟨0x2B, tag, body⟩
  | .setEmitter tag body => some ⟨0x30, tag, body⟩
  | .clearEmitter tag body => some ⟨0x31, tag, body⟩
  | .addListener tag body => some ⟨0x32, tag, body⟩
  | .removeListener tag body => some ⟨0x33, tag, body⟩
  | .queryFabric tag body => some ⟨0x34, tag, body⟩
  | .badKind kind tag body => some ⟨kind, tag, body⟩
  | .frameEnd _ => none
  | .badLen _ => none
  | .gapTimeout => none
  | .linkReset => none
  | .transmitterFree _ => none
  | .coldReset _ _ => none
  | .pinHoldChange => none
  | .channelTick _ _ => none
  | .pendingDeliveryApplied _ _ => none
  | .enterRunning _ _ => none
  | .segmentEnd _ _ => none
  | .edgeAccepted _ _ => none
  | .timeoutExpiry _ _ => none
  | .byteArrives _ => none
  | .framingError => none

end Sys2Proof.Machine
end

