-- ==== Sys2Proof/Machine/Ops.lean ====
section
/-! DEFINITION. The operations the commands share: the report queue, references to patterns, channel records, the event
fabric, halts and hold, frames, the arrival checks and the executor. -/

namespace Sys2Proof.Machine

/-! ### Report queue (R154, R155) -/

/-- Saturating count, 0–65535. -/
def countUp (n : Nat) : Nat := min (n + 1) Config.countMax

/-- R154: a report joins the queue with the next sequence number, or is lost and counted when the queue is full. -/
def Link.append (k : Link) (b : ReportBody) : Link :=
  if k.reports.length < Config.reportSlots then
    { k with reports := k.reports ++ [{ seq := k.nextSeq, body := b }], nextSeq := k.nextSeq + 1 }
  else { k with lost := countUp k.lost }

/-- A block raises a report. -/
def State.report (s : State) (b : ReportBody) : State := { s with link := s.link.append b }

/-- A NOTICE with the present device time (R146). -/
def State.notice (s : State) (r : NoticeReason) : State := s.report (.notice r s.time)

/-- R155: the GAP is appended, only into room, and then the lost count returns to 0. -/
def Link.appendGap (k : Link) : Link :=
  if 0 < k.lost ∧ k.reports.length < Config.reportSlots then
    { k with reports := k.reports ++ [{ seq := k.nextSeq, body := .gap k.lost }], nextSeq := k.nextSeq + 1, lost := 0 }
  else k

/-! ### References to patterns (R14 to R16) -/

/-- A channel takes a reference to `p`. -/
def PatternStore.retain (t : PatternStore) (p : PatternId) : PatternStore :=
  { t with rows := t.rows.set p { t.rows[p] with users := t.rows[p].users + 1 } }

/-- A channel releases a reference to `p`. -/
def PatternStore.release (t : PatternStore) (p : PatternId) : PatternStore :=
  { t with rows := t.rows.set p { t.rows[p] with users := t.rows[p].users - 1 } }

/-- Releases the reference of a pattern field, where it is present. -/
def PatternStore.releaseField (t : PatternStore) (p : Option PatternId) : PatternStore :=
  match p with
  | none => t
  | some p => t.release p

/-- Releases a channel's active and staged references. -/
def PatternStore.releaseRole (t : PatternStore) (r : Role) : PatternStore :=
  match r with
  | .input _ => t
  | .output o => (t.releaseField o.active).releaseField (o.staged.map Staged.pattern)

/-! ### Channel records -/

/-- Replaces a channel's record. -/
def State.setChannel (s : State) (ch : ChannelId) (c : Option Channel) : State :=
  { s with channels := s.channels.set ch c }

/-- Changes a bound channel's record; a FREE channel has none. -/
def State.updateChannel (s : State) (ch : ChannelId) (f : Channel → Channel) : State :=
  match s.channels[ch] with
  | none => s
  | some c => s.setChannel ch (some (f c))

/-- Changes the output-role fields. -/
def Channel.updateOutput (c : Channel) (f : OutputRole → OutputRole) : Channel :=
  match c.role with
  | .output o => { c with role := .output (f o) }
  | .input _ => c

/-- Changes the input-role fields. -/
def Channel.updateInput (c : Channel) (f : InputRole → InputRole) : Channel :=
  match c.role with
  | .output _ => c
  | .input i => { c with role := .input (f i) }

/-- The channel with its output-role fields, where it is bound in the output role. -/
def State.outputChannel (s : State) (ch : ChannelId) : Option (Channel × OutputRole) :=
  match s.channels[ch] with
  | none => none
  | some c =>
    match c.role with
    | .output o => some (c, o)
    | .input _ => none

/-- The channel with its input-role fields, where it is bound in the input role. -/
def State.inputChannel (s : State) (ch : ChannelId) : Option (Channel × InputRole) :=
  match s.channels[ch] with
  | none => none
  | some c =>
    match c.role with
    | .output _ => none
    | .input i => some (c, i)

/-- The channel's frozen flag; clear when FREE. -/
def State.isFrozen (s : State) (ch : ChannelId) : Bool :=
  match s.channels[ch] with
  | none => false
  | some c => c.frozen

/-- The channel is in WAITING or RUNNING. -/
def Channel.inPlay (c : Channel) : Bool := decide (c.activity = .waiting ∨ c.activity = .running)

def Channel.isOutput (c : Channel) : Bool :=
  match c.role with
  | .output _ => true
  | .input _ => false

/-! ### Event fabric (R114, R123 to R125) -/

/-- R124, R125: an event at `now` on line `l` reaches a listening channel: it adds a delivery or joins the pending one. -/
def Channel.place (c : Channel) (l : LineId) (a : Action) (now : Time) : Channel :=
  { c with deliveries := c.deliveries.set l (some
      (match c.deliveries[l] with
        | none => { action := a, firstTime := now, count := 1 }
        | some d => { d with count := min (d.count + 1) Config.coalescedMax })) }

/-- One placement at each listener's target. -/
def State.placeDeliveries (s : State) (l : LineId) : State :=
  { s with channels := Vector.ofFn fun t : ChannelId =>
      match s.fabric.listeners[l][t], s.channels[t] with
      | some a, some c => some (c.place l a s.time)
      | _, c => c }

/-- R114: line `l` carries the event when its emitter names the source and the kind: first the LINE report, then the deliveries. -/
def State.carry (s : State) (ch : ChannelId) (k : EventKind) (l : LineId) : State :=
  match s.fabric.emitters[l] with
  | none => s
  | some e =>
    if e.source = ch ∧ e.kind = k then
      (if e.report then s.report (.line l ch k s.time) else s).placeDeliveries l
    else s

/-- R114: a channel raises an event at the present device time; its lines carry it in ascending order. -/
def State.raise (s : State) (ch : ChannelId) (k : EventKind) : State :=
  lines.foldl (fun s l => s.carry ch k l) s

/-- The fabric without the emitters of a source and the listeners of a target (R36). -/
def Fabric.without (f : Fabric) (ch : ChannelId) : Fabric :=
  { emitters := Vector.ofFn fun l : LineId =>
      match f.emitters[l] with
      | none => none
      | some e => if e.source = ch then none else some e
    listeners := Vector.ofFn fun l : LineId => (f.listeners[l]).set ch none }

/-- Emitter entries of a source. -/
def Fabric.emittersOf (f : Fabric) (ch : ChannelId) : List LineId :=
  lines.filter fun l =>
    match f.emitters[l] with
    | none => false
    | some e => decide (e.source = ch)

/-- Listener entries of a target. -/
def Fabric.listenersOf (f : Fabric) (ch : ChannelId) : List LineId :=
  lines.filter fun l => (f.listeners[l][ch]).isSome

/-! ### Leaving play and becoming free -/

/-- The role fields of a channel that leaves RUNNING or WAITING by a halt (R52, R90): the segment ticks left, the
qualification in progress and the timeout remaining become absent; everything else is kept. -/
def Role.cut : Role → Role
  | .output o => .output { o with ticksLeft := none }
  | .input i => .input { i with qual := none, timeoutLeft := none }

/-- R34: entry to HALTED. -/
def Channel.halt (c : Channel) (r : HaltReason) : Channel :=
  { c with activity := .halted, haltReason := r, role := c.role.cut }

/-- The output-role fields after BIND with an idle level (R35, R39). -/
def OutputRole.fresh (idle : Level) : OutputRole :=
  { idleLevel := idle, active := none, staged := none, segIndex := 0, ticksLeft := none, reps := 0, doneLevel := none }

/-- The input-role fields with their progress cleared (R39, R90). -/
def InputRole.cleared (i : InputRole) : InputRole :=
  { i with accepted := none, qual := none, captures := 0, lastCapture := none, timeoutLeft := none }

/-- The input-role fields after BIND (R35). -/
def InputRole.fresh : InputRole :=
  { edgeSelect := .both, window := 0, timeoutWindow := 0, timeoutAction := .report, mode := .plain, limit := 0,
    accepted := none, qual := none, captures := 0, lastCapture := none, timeoutLeft := none }

/-- The role fields of a cleared frozen channel: the configuration is kept (R39). -/
def Role.cleared : Role → Role
  | .output o => .output (OutputRole.fresh o.idleLevel)
  | .input i => .input i.cleared

/-- R39: a cleared frozen channel, in IDLE with its binding, configuration and frozen flag kept. -/
def Channel.cleared (c : Channel) (now : Time) : Channel :=
  { c with activity := .idle, startCondition := .next now, rearm := false, haltReason := .none,
           deliveries := Vector.replicate 8 none, role := c.role.cleared }

/-- R36: the references released, the fabric entries removed, the deliveries discarded, the pin freed, the record FREE. -/
def State.freeChannel (s : State) (ch : ChannelId) (c : Channel) : State :=
  { s with store := s.store.releaseRole c.role
           fabric := s.fabric.without ch
           pinTable := s.pinTable.set c.pin none
           channels := s.channels.set ch none }

/-! ### Hold (R132, R134) -/

/-- R132: one channel at the entry into hold. -/
def State.holdChannel (s : State) (ch : ChannelId) : State :=
  match s.channels[ch] with
  | none => s
  | some c =>
    if c.isOutput ∧ c.inPlay then
      (s.setChannel ch (some (c.halt .hold))).report (.state ch .haltedHold s.time)
    else s

/-- R132: hold becomes active: the halts in ascending channel number, then the HOLD report. -/
def State.enterHold (s : State) (cause : HoldCause) : State :=
  (channelIds.foldl State.holdChannel s).report (.hold true cause s.time)

/-- R134: hold becomes inactive by the pin or by RELEASE. -/
def State.exitHold (s : State) (cause : HoldCause) : State :=
  s.report (.hold false cause s.time)

/-- The state with the pin hold at a value and the filter run count at 0 (R130). -/
def State.withPinHold (s : State) (p : PinHold) : State := { s with hold := { s.hold with pinHold := p, runCount := 0 } }

/-- R130, R131: the pin hold changes to the other value. -/
def State.changePinHold (s : State) : State :=
  match s.hold.pinHold with
  | .deasserted => if s.hold.request then s.withPinHold .asserted else (s.withPinHold .asserted).enterHold .pin
  | .asserted => if s.hold.request then s.withPinHold .deasserted else (s.withPinHold .deasserted).exitHold .pin

/-! ### Frames and CRC (R141, R162) -/

/-- One bit of the CRC: generator 0x1021, most significant bit first. -/
def crcShift (c : Half) : Half := if c.msb then (c <<< 1) ^^^ 0x1021 else c <<< 1

/-- One byte into the CRC register. -/
def crcByte (c : Half) (b : Byte) : Half :=
  crcShift (crcShift (crcShift (crcShift (crcShift (crcShift (crcShift (crcShift (c ^^^ (b.setWidth 16 <<< 8)))))))))

/-- R141: the register starts at 0xFFFF. -/
def crcOf (bytes : List Byte) : Half := bytes.foldl crcByte 0xFFFF

/-- LEN, KIND, TAG and BODY: what the CRC covers. -/
def coveredBytes (kind tag : Byte) (body : List Byte) : List Byte := byte1 (body.length + 2) :: kind :: tag :: body

/-- The CRC received with a request (R141). -/
def Request.crc (r : Request) : Half := crcOf (coveredBytes r.kind r.tag r.body)

/-- R162: a frame as it goes on the wire. -/
def Frame.bytes (f : Frame) : List Byte :=
  Config.sync :: (coveredBytes f.kind f.tag f.body ++ bytes2 (crcOf (coveredBytes f.kind f.tag f.body)).toNat)

/-! ### Replies and the replay table (R150 to R152) -/

/-- The reply frame to a request (R150). -/
def replyFrame (r : Request) (body : List Byte) : Frame := { kind := replyKind r.kind, tag := r.tag, body := body }

/-- A replayed or QUEUE_FULL reply joins the reply queue, or is dropped when the queue is full (R152). -/
def Link.pushReply (k : Link) (f : Frame) : Link :=
  if k.replies.length < Config.replySlots then { k with replies := k.replies ++ [f] } else k

/-- R151: the newest entry of the replay table; the oldest is removed when the table is full. -/
def Link.enterReplay (k : Link) (e : ReplayEntry) : Link :=
  { k with replay := (if k.replay.length < Config.replaySlots then k.replay else k.replay.tail) ++ [e] }

/-- R149: the executor's reply joins the reply queue and the replay table. -/
def Link.answer (k : Link) (r : Request) (body : List Byte) : Link :=
  ({ k with replies := k.replies ++ [replyFrame r body] }).enterReplay
    { tag := r.tag, crc := r.crc, reply := replyFrame r body }

/-! ### Arrival (R147) -/

/-- Checks 3 to 5. -/
def Link.screen (k : Link) (r : Request) : Link :=
  if (k.requests.map Request.tag).contains r.tag then k
  else if k.requests.length < Config.requestSlots then { k with requests := k.requests ++ [r] }
  else k.pushReply (replyFrame r [statusByte .queueFull])

/-- R147: the arrival checks of a valid request. -/
def Link.arrive (k : Link) (r : Request) : Link :=
  match k.replay.find? fun e => decide (e.tag = r.tag) with
  | some e =>
    if e.crc = r.crc then k.pushReply e.reply
    else Link.screen { k with replay := k.replay.filter fun e => decide (e.tag ≠ r.tag) } r
  | none => k.screen r

/-! ### The executor (R149, R165) -/

/-- What a block answers to a request: a status that refuses it, with no effect, or its effect and the results after status OK. -/
inductive Answer where
  | refuse (status : Status)
  | succeed (state : State) (results : List Byte)
deriving DecidableEq, Repr

/-- R149: the reply of an executed request. -/
def State.conclude (s : State) (r : Request) : Answer → State
  | .refuse st => { s with link := s.link.answer r [statusByte st] }
  | .succeed t results => { t with link := t.link.answer r (statusByte .ok :: results) }

/-- The state once the executor has taken the oldest request from the queue. -/
def State.popped (s : State) : State := { s with link := { s.link with requests := s.link.requests.tail } }

/-- R149: the executor takes `r`, the oldest request, and the block that owns it executes it whole. -/
def State.take (s : State) (r : Request) (owner : List Byte → State → Answer) : State :=
  s.popped.conclude r (owner r.body s.popped)

/-- The executor may take `r` now: it is the oldest request and the reply queue has room (R149). -/
def State.ready (s : State) (r : Request) : Bool :=
  decide (s.link.requests.head? = some r ∧ s.link.replies.length < Config.replySlots)

/-- The state in which `r` has arrived: the present one where `r` already is the oldest waiting request, else the one after the
arrival checks (notes/assumptions/3.md). -/
def State.arrived (s : State) (r : Request) : State :=
  if s.link.requests.head? = some r then s else { s with link := s.link.arrive r }

/-- A request command: the request arrives, unless it already waits as the oldest, and the executor takes it when it may;
otherwise it waits, is discarded or is answered as the arrival checks say (notes/assumptions/3.md). -/
def State.request (s : State) (r : Request) (owner : List Byte → State → Answer) : State :=
  if s.inColdReset then s
  else if (s.arrived r).ready r then (s.arrived r).take r owner
  else s.arrived r

end Sys2Proof.Machine
end

