-- ==== Sys2Proof/Machine/Channels.lean ====
section
/-! DEFINITION. The requests of the channel array: BIND, UNBIND, CONFIGURE_OUTPUT, CONFIGURE_INPUT, FREEZE, CLEAR_CHANNEL,
QUERY_CHANNEL, ASSIGN, UNSTAGE, START, STOP (chapters 3 to 6). -/

namespace Sys2Proof.Machine

/-! ### Binding (R35 to R37) -/

/-- The role field of BIND, with the role's fields after BIND (R35). -/
def roleOf (b : Byte) : Option Role :=
  if b = 0 then some (.output (OutputRole.fresh .low)) else if b = 1 then some (.input InputRole.fresh) else none

/-- R35: the record of a channel just bound. -/
def Channel.bound (r : Role) (p : PinId) (t : TimebaseId) (now : Time) : Channel :=
  { activity := .idle, pin := p, timebase := t, frozen := false, startCondition := .next now, rearm := false,
    haltReason := .none, deliveries := Vector.replicate 8 none, role := r }

/-- R35. A frozen channel is not FREE (R37), so check 3 reads the record of check 4. -/
def bind (body : List Byte) (s : State) : Answer :=
  match body with
  | [chb, rb, pb, tb] =>
    match idOf 16 chb, roleOf rb, idOf 20 pb, idOf 4 tb with
    | some ch, some r, some p, some t =>
      match s.channels[ch] with
      | some c => if c.frozen then .refuse .frozen else .refuse .badState
      | none =>
        if s.pinTable[p] ≠ none then .refuse .conflict
        else
          .succeed { s with pinTable := s.pinTable.set p (some ch)
                            channels := s.channels.set ch (some (Channel.bound r p t s.time)) } []
    | _, _, _, _ => .refuse .badField
  | _ => .refuse .badLength

/-- R36. -/
def unbind (body : List Byte) (s : State) : Answer :=
  match body with
  | [chb] =>
    match idOf 16 chb with
    | none => .refuse .badField
    | some ch =>
      match s.channels[ch] with
      | none => .refuse .badState
      | some c =>
        if c.frozen then .refuse .frozen
        else if c.inPlay then .refuse .badState
        else
          .succeed (s.freeChannel ch c)
            [byte1 (s.fabric.emittersOf ch).length, byte1 (s.fabric.listenersOf ch).length]
  | _ => .refuse .badLength

/-- R37. -/
def freeze (body : List Byte) (s : State) : Answer :=
  match body with
  | [chb] =>
    match idOf 16 chb with
    | none => .refuse .badField
    | some ch =>
      match s.channels[ch] with
      | none => .refuse .badState
      | some c => .succeed (s.setChannel ch (some { c with frozen := true })) []
  | _ => .refuse .badLength

/-- R38, R39. -/
def clearChannel (body : List Byte) (s : State) : Answer :=
  match body with
  | [chb] =>
    match idOf 16 chb with
    | none => .refuse .badField
    | some ch =>
      match s.channels[ch] with
      | none => .refuse .badState
      | some c =>
        if c.frozen then
          .succeed ({ s with store := s.store.releaseRole c.role }.setChannel ch (some (c.cleared s.time))) [1]
        else .succeed (s.freeChannel ch c) [0]
  | _ => .refuse .badLength

/-- R40, R168. -/
def queryChannel (body : List Byte) (s : State) : Answer :=
  match body with
  | [chb] =>
    match idOf 16 chb with
    | none => .refuse .badField
    | some ch =>
      match s.channels[ch] with
      | none => .succeed s [chb, 0]
      | some c => .succeed s (channelBytes ch c)
  | _ => .refuse .badLength

/-! ### Configuration (R65, R66, R110, R111) -/

/-- R65, R66. -/
def configureOutput (body : List Byte) (s : State) : Answer :=
  match body with
  | [chb, lb] =>
    match idOf 16 chb, levelOf lb with
    | some ch, some l =>
      match s.channels[ch] with
      | none => .refuse .badState
      | some c =>
        match c.role with
        | .input _ => .refuse .badRole
        | .output o =>
          if c.frozen then .refuse .frozen
          else if c.inPlay then .refuse .badState
          else
            let q : OutputRole := { o with idleLevel := l }
            let t := s.setChannel ch (some { c with role := .output q })
            .succeed t [lb, levelByte (t.outputLevel c q)]
    | _, _ => .refuse .badField
  | _ => .refuse .badLength

/-- R110, R111. -/
def configureInput (body : List Byte) (s : State) : Answer :=
  match body with
  | [chb, eb, q1, q0, w1, w0, ab, mb, l1, l0] =>
    match idOf 16 chb, edgeOf eb, timeoutActionOf ab, modeOf mb with
    | some ch, some e, some a, some m =>
      match s.channels[ch] with
      | none => .refuse .badState
      | some c =>
        match c.role with
        | .output _ => .refuse .badRole
        | .input i =>
          if c.frozen then .refuse .frozen
          else if c.inPlay then .refuse .badState
          else
            let j : InputRole := { i with edgeSelect := e, window := number2 q1 q0, timeoutWindow := number2 w1 w0,
                                          timeoutAction := a, mode := m, limit := number2 l1 l0 }
            .succeed (s.setChannel ch (some { c with role := .input j })) (inputConfigBytes j)
    | _, _, _, _ => .refuse .badField
  | _ => .refuse .badLength

/-! ### Patterns of a channel (R75 to R78, R85) -/

/-- R76: the assigned pattern becomes active; nothing stays staged. -/
def OutputRole.assignActive (o : OutputRole) (p : PatternId) : OutputRole := { o with active := some p, staged := none }

/-- R77: the assigned pattern becomes staged. -/
def OutputRole.assignStaged (o : OutputRole) (p : PatternId) (w : SwapPoint) : OutputRole :=
  { o with staged := some { pattern := p, point := w } }

/-- The results of an ASSIGN: outcome, active and staged ids as they stand after it (R78). -/
def assignResults (outcome : Byte) (o : OutputRole) : List Byte :=
  [outcome, orNone idByte o.active, orNone (fun g => idByte g.pattern) o.staged]

/-- R76, R77: the reference is taken before others are released, so each row changes by the net (R15). -/
def State.assignTo (s : State) (ch : ChannelId) (c : Channel) (o : OutputRole) (p : PatternId) (w : SwapPoint) : Answer :=
  let taken := s.store.retain p
  if c.activity = .running then
    let q := o.assignStaged p w
    .succeed ({ s with store := taken.releaseField (o.staged.map Staged.pattern) }.setChannel ch
        (some { c with role := .output q }))
      (assignResults (if o.staged = none then 1 else 2) q)
  else
    let q := o.assignActive p
    .succeed ({ s with store := taken.releaseRole (.output o) }.setChannel ch (some { c with role := .output q }))
      (assignResults 0 q)

/-- R75 to R78. -/
def assign (body : List Byte) (s : State) : Answer :=
  match body with
  | [chb, pb, wb] =>
    match idOf 16 chb, idOf 32 pb, swapPointOf wb with
    | some ch, some p, some w =>
      match s.channels[ch] with
      | none => .refuse .badState
      | some c =>
        match c.role with
        | .input _ => .refuse .badRole
        | .output o =>
          if s.store.rows[p].pattern = none then .refuse .notFound else s.assignTo ch c o p w
    | _, _, _ => .refuse .badField
  | _ => .refuse .badLength

/-- R85. -/
def unstage (body : List Byte) (s : State) : Answer :=
  match body with
  | [chb] =>
    match idOf 16 chb with
    | none => .refuse .badField
    | some ch =>
      match s.channels[ch] with
      | none => .refuse .badState
      | some c =>
        match c.role with
        | .input _ => .refuse .badRole
        | .output o =>
          match o.staged with
          | none => .refuse .notFound
          | some g =>
            .succeed ({ s with store := s.store.release g.pattern }.setChannel ch
                (some { c with role := .output { o with staged := none } }))
              [idByte g.pattern]
  | _ => .refuse .badLength

/-! ### START and STOP (R41, R42, R45) -/

/-- The fields of a START body: channel, condition (with the execution time for NEXT and the at-time of the request for AT) and rearm. -/
structure StartFields where
  ch : ChannelId
  condition : StartCondition
  rearm : Bool
deriving DecidableEq, Repr

/-- R41 checks 1 and 2. -/
def startFieldsOf (body : List Byte) (now : Time) : Except Status StartFields :=
  match body with
  | [chb, kb, rb] =>
    if kb = 1 then .error .badLength
    else
      match idOf 16 chb, flagOf rb with
      | some ch, some r =>
        if kb = 0 then (if r then .error .badField else .ok ⟨ch, .next now, r⟩)
        else if kb = 2 then .ok ⟨ch, .trigger, r⟩
        else .error .badField
      | _, _ => .error .badField
  | [chb, kb, rb, t5, t4, t3, t2, t1, t0] =>
    if kb = 0 ∨ kb = 2 then .error .badLength
    else
      match idOf 16 chb, flagOf rb with
      | some ch, some r =>
        if kb = 1 ∧ r = false then .ok ⟨ch, .at (timeOf t5 t4 t3 t2 t1 t0), r⟩ else .error .badField
      | _, _ => .error .badField
  | _ => .error .badLength

/-- R41 check 7: the at-time is not ahead of the execution time. -/
def StartCondition.late (k : StartCondition) (now : Time) : Bool :=
  match k with
  | .at t => !ahead t now
  | _ => false

/-- R42: the output-role fields of a channel entering WAITING; a staged pattern is promoted. -/
def OutputRole.started (o : OutputRole) : OutputRole :=
  { o with active := (match o.staged with
                      | none => o.active
                      | some g => some g.pattern)
           staged := none, segIndex := 0, ticksLeft := none, reps := 0, doneLevel := none }

/-- R42: the record of a channel entering WAITING. -/
def Channel.started (c : Channel) (f : StartFields) (r : Role) : Channel :=
  { c with activity := .waiting, startCondition := f.condition, rearm := f.rearm, haltReason := .none, role := r }

/-- R42: the effect of a START on an output channel: the promotion, when a pattern is staged, raises a SWAP report and no event. -/
def State.startOutput (s : State) (f : StartFields) (c : Channel) (o : OutputRole) : State :=
  match o.staged with
  | none => s.setChannel f.ch (some (c.started f (.output o.started)))
  | some g =>
    ({ s with store := s.store.releaseField o.active }.setChannel f.ch
      (some (c.started f (.output o.started)))).report (.swap f.ch o.active g.pattern .start s.time)

/-- R41, R42. -/
def start (body : List Byte) (s : State) : Answer :=
  match startFieldsOf body s.time with
  | .error st => .refuse st
  | .ok f =>
    match s.channels[f.ch] with
    | none => .refuse .badState
    | some c =>
      match c.role with
      | .output o =>
        if s.holdActive then .refuse .held
        else if c.inPlay then .refuse .badState
        else if o.active = none ∧ o.staged = none then .refuse .notFound
        else if f.condition.late s.time then .refuse .late
        else .succeed (s.startOutput f c o) (timeBytes s.time)
      | .input i =>
        if c.inPlay then .refuse .badState
        else if f.condition.late s.time then .refuse .late
        else .succeed (s.setChannel f.ch (some (c.started f (.input i.cleared)))) (timeBytes s.time)

/-- R45. -/
def stop (body : List Byte) (s : State) : Answer :=
  match body with
  | [chb] =>
    match idOf 16 chb with
    | none => .refuse .badField
    | some ch =>
      match s.channels[ch] with
      | none => .refuse .badState
      | some c =>
        .succeed (if c.inPlay then s.setChannel ch (some (c.halt .request)) else s) [activityByte c.activity]
  | _ => .refuse .badLength

/-! ### The rows -/

/-- BIND (R35). -/
def execBind (tag : Byte) (body : List Byte) (s : State) : Host.Outcome State Fault Refusal :=
  .next (s.request ⟨0x20, tag, body⟩ bind)

/-- UNBIND (R36). -/
def execUnbind (tag : Byte) (body : List Byte) (s : State) : Host.Outcome State Fault Refusal :=
  .next (s.request ⟨0x21, tag, body⟩ unbind)

/-- CONFIGURE_OUTPUT (R65, R66). -/
def execConfigureOutput (tag : Byte) (body : List Byte) (s : State) : Host.Outcome State Fault Refusal :=
  .next (s.request ⟨0x22, tag, body⟩ configureOutput)

/-- CONFIGURE_INPUT (R110, R111). -/
def execConfigureInput (tag : Byte) (body : List Byte) (s : State) : Host.Outcome State Fault Refusal :=
  .next (s.request ⟨0x23, tag, body⟩ configureInput)

/-- FREEZE (R37). -/
def execFreeze (tag : Byte) (body : List Byte) (s : State) : Host.Outcome State Fault Refusal :=
  .next (s.request ⟨0x24, tag, body⟩ freeze)

/-- CLEAR_CHANNEL (R38, R39). -/
def execClearChannel (tag : Byte) (body : List Byte) (s : State) : Host.Outcome State Fault Refusal :=
  .next (s.request ⟨0x25, tag, body⟩ clearChannel)

/-- QUERY_CHANNEL (R40). -/
def execQueryChannel (tag : Byte) (body : List Byte) (s : State) : Host.Outcome State Fault Refusal :=
  .next (s.request ⟨0x26, tag, body⟩ queryChannel)

/-- ASSIGN (R75 to R78). -/
def execAssign (tag : Byte) (body : List Byte) (s : State) : Host.Outcome State Fault Refusal :=
  .next (s.request ⟨0x28, tag, body⟩ assign)

/-- UNSTAGE (R85). -/
def execUnstage (tag : Byte) (body : List Byte) (s : State) : Host.Outcome State Fault Refusal :=
  .next (s.request ⟨0x29, tag, body⟩ unstage)

/-- START (R41, R42). -/
def execStart (tag : Byte) (body : List Byte) (s : State) : Host.Outcome State Fault Refusal :=
  .next (s.request ⟨0x2A, tag, body⟩ start)

/-- STOP (R45). -/
def execStop (tag : Byte) (body : List Byte) (s : State) : Host.Outcome State Fault Refusal :=
  .next (s.request ⟨0x2B, tag, body⟩ stop)

end Sys2Proof.Machine
end

