-- ==== Sys2Proof/Machine/Device.lean ====
section
/-! DEFINITION. The requests of the link unit, the timebase unit and the hold unit: QUERY_DEVICE, READ_TIME, GRANT,
DEVICE_RESET, SET_TIMEBASE, HOLD, RELEASE (chapters 2, 8 and 9). -/

namespace Sys2Proof.Machine

/-- R158, R166. -/
def queryDevice (body : List Byte) (s : State) : Answer :=
  match body with
  | [] =>
    .succeed s ([Config.familyCode, Config.revision] ++ timeBytes s.time ++
      [pinHoldByte s.hold.pinHold, flagByte s.hold.request] ++ bytes2 s.store.free ++
      [byte1 s.store.defined, byte1 s.link.credit, byte1 s.link.reports.length] ++ bytes2 s.link.lost ++
      [byte1 s.link.requests.length])
  | _ => .refuse .badLength

/-- A divisor's field: the divisor minus one (R23). -/
def divisorBytes (t : Timebase) : List Byte := bytes2 (t.divisor - 1)

/-- R29. -/
def readTime (body : List Byte) (s : State) : Answer :=
  match body with
  | [] =>
    .succeed s (timeBytes s.time ++ divisorBytes s.timebases[0] ++ divisorBytes s.timebases[1] ++
      divisorBytes s.timebases[2] ++ divisorBytes s.timebases[3])
  | _ => .refuse .badLength

/-- R156. -/
def grant (body : List Byte) (s : State) : Answer :=
  match body with
  | [n] =>
    if n.toNat = 0 ∨ Config.maxCredit < n.toNat then .refuse .badField
    else
      let credit := min (s.link.credit + n.toNat) Config.maxCredit
      .succeed { s with link := { s.link with credit := credit } } [byte1 credit]
  | _ => .refuse .badLength

/-! ### Timebases (R23, R26, R27) -/

/-- A restart of the phase counter with a divisor: that base tick is not a tick, unless a channel has taken it already (R23, R28). -/
def Timebase.restart (t : Timebase) (divisor : Nat) : Timebase :=
  { divisor := divisor, phase := 0, tick := if t.tick = .due then .noTick else t.tick }

/-- Some channel bound to the timebase has the property. -/
def State.anyOn (s : State) (t : TimebaseId) (p : Channel → Bool) : Bool :=
  channelIds.any fun ch =>
    match s.channels[ch] with
    | none => false
    | some c => decide (c.timebase = t) && p c

/-- R26, R27. -/
def setTimebase (body : List Byte) (s : State) : Answer :=
  match body with
  | [tb, d1, d0] =>
    match idOf 4 tb with
    | none => .refuse .badField
    | some t =>
      if s.anyOn t Channel.frozen then .refuse .frozen
      else if s.anyOn t Channel.inPlay then .refuse .badState
      else
        .succeed { s with timebases := s.timebases.set t (s.timebases[t].restart (number2 d1 d0 + 1)) }
          ([tb, d1, d0] ++ timeBytes s.time)
  | _ => .refuse .badLength

/-! ### Hold (R135, R136) -/

/-- The state with the hold request flag at a value (R131). -/
def State.withHoldFlag (s : State) (b : Bool) : State := { s with hold := { s.hold with request := b } }

/-- R135. -/
def holdRequest (body : List Byte) (s : State) : Answer :=
  match body with
  | [] =>
    .succeed (if s.holdActive then s.withHoldFlag true else (s.withHoldFlag true).enterHold .request)
      [flagByte s.holdActive, pinHoldByte s.hold.pinHold]
  | _ => .refuse .badLength

/-- R136. -/
def releaseRequest (body : List Byte) (s : State) : Answer :=
  match body with
  | [] =>
    .succeed
      (if s.hold.request = true ∧ s.hold.pinHold = .deasserted then (s.withHoldFlag false).exitHold .request
       else s.withHoldFlag false)
      [flagByte s.hold.request, pinHoldByte s.hold.pinHold]
  | _ => .refuse .badLength

/-! ### Warm reset (R18, R31, R51, R129, R138, R160) -/

/-- R51: a frozen channel returns to a clean IDLE, an unfrozen one becomes FREE. -/
def resetChannel (now : Time) (c : Option Channel) : Option Channel :=
  match c with
  | none => none
  | some c => if c.frozen then some (c.cleared now) else none

/-- R51: the pins of frozen channels stay bound. -/
def State.resetPin (s : State) (p : PinId) : Option ChannelId :=
  match s.pinTable[p] with
  | none => none
  | some ch => if s.isFrozen ch then some ch else none

/-- R31: a timebase with a frozen channel keeps its divisor and phase; another takes its cold divisor and restarts. -/
def State.resetTimebase (s : State) (t : TimebaseId) : Timebase :=
  if s.anyOn t Channel.frozen then s.timebases[t] else s.timebases[t].restart (Config.coldDivisor t)

/-- R129: the entries that serve frozen channels stay. -/
def State.resetFabric (s : State) : Fabric :=
  { emitters := Vector.ofFn fun l : LineId =>
      match s.fabric.emitters[l] with
      | none => none
      | some e => if s.isFrozen e.source then some e else none
    listeners := Vector.ofFn fun l : LineId => Vector.ofFn fun t : ChannelId =>
      if s.isFrozen t then s.fabric.listeners[l][t] else none }

/-- R160 steps 1 to 3, before the reply: the receiver, the replies already queued and the frame in transmission are kept. -/
def Link.warmReset (k : Link) : Link :=
  { k with requests := [], reports := [], nextSeq := 0, lost := 0, credit := 0, gapDue := false, replay := [] }

/-- Every block's part of the warm reset. -/
def State.warmReset (s : State) : State :=
  { s with
    timebases := Vector.ofFn s.resetTimebase
    store := PatternStore.empty
    channels := Vector.ofFn fun ch : ChannelId => resetChannel s.time s.channels[ch]
    pinTable := Vector.ofFn s.resetPin
    fabric := s.resetFabric
    hold := { s.hold with request := false }
    link := s.link.warmReset }

/-- Frozen channels (R51). -/
def State.frozenCount (s : State) : Nat := (channelIds.filter s.isFrozen).length

/-- R160. -/
def deviceReset (body : List Byte) (s : State) : Answer :=
  match body with
  | [] => .succeed s.warmReset [byte1 s.link.requests.length, byte1 s.frozenCount]
  | _ => .refuse .badLength

/-! ### The rows -/

/-- QUERY_DEVICE (R158). -/
def execQueryDevice (tag : Byte) (body : List Byte) (s : State) : Host.Outcome State Fault Refusal :=
  .next (s.request ⟨0x01, tag, body⟩ queryDevice)

/-- READ_TIME (R29). -/
def execReadTime (tag : Byte) (body : List Byte) (s : State) : Host.Outcome State Fault Refusal :=
  .next (s.request ⟨0x02, tag, body⟩ readTime)

/-- GRANT (R156). -/
def execGrant (tag : Byte) (body : List Byte) (s : State) : Host.Outcome State Fault Refusal :=
  .next (s.request ⟨0x03, tag, body⟩ grant)

/-- DEVICE_RESET (R160). -/
def execDeviceReset (tag : Byte) (body : List Byte) (s : State) : Host.Outcome State Fault Refusal :=
  .next (s.request ⟨0x04, tag, body⟩ deviceReset)

/-- SET_TIMEBASE (R27). -/
def execSetTimebase (tag : Byte) (body : List Byte) (s : State) : Host.Outcome State Fault Refusal :=
  .next (s.request ⟨0x05, tag, body⟩ setTimebase)

/-- HOLD (R135). -/
def execHold (tag : Byte) (body : List Byte) (s : State) : Host.Outcome State Fault Refusal :=
  .next (s.request ⟨0x06, tag, body⟩ holdRequest)

/-- RELEASE (R136). -/
def execRelease (tag : Byte) (body : List Byte) (s : State) : Host.Outcome State Fault Refusal :=
  .next (s.request ⟨0x07, tag, body⟩ releaseRequest)

end Sys2Proof.Machine
end

