-- ==== Sys2Proof/Machine/Lines.lean ====
section
/-! DEFINITION. The requests of the event fabric: SET_EMITTER, CLEAR_EMITTER, ADD_LISTENER, REMOVE_LISTENER, QUERY_FABRIC
(chapter 7). -/

namespace Sys2Proof.Machine

/-- An event kind is valid for a source's role (chapter 7). -/
def Role.raises : Role → EventKind → Bool
  | _, .begin => true
  | .output _, .mark => true
  | .output _, .cycle => true
  | .output _, .swap => true
  | .output _, .done => true
  | .input _, .edge => true
  | .input _, .timeout => true
  | .input _, .limit => true
  | _, _ => false

/-- An action is valid for a target's role (chapter 7). -/
def Role.accepts : Role → Action → Bool
  | _, .start => true
  | _, .stop => true
  | .output _, .restart => true
  | .output _, .swap => true
  | .input _, .stamp => true
  | _, _ => false

/-- The line has an emitter whose source is frozen. -/
def State.lineFrozen (s : State) (l : LineId) : Bool :=
  match s.fabric.emitters[l] with
  | none => false
  | some e => s.isFrozen e.source

/-- The source is bound and the kind is not valid for its role (R116 check 3). -/
def State.wrongKind (s : State) (ch : ChannelId) (k : EventKind) : Bool :=
  match s.channels[ch] with
  | none => false
  | some c => !c.role.raises k

/-- The fabric with another emitter entry at a line. -/
def Fabric.withEmitter (f : Fabric) (l : LineId) (e : Option Emitter) : Fabric :=
  { f with emitters := f.emitters.set l e }

/-- The fabric with another listener entry for a line and a target. -/
def Fabric.withListener (f : Fabric) (l : LineId) (t : ChannelId) (a : Option Action) : Fabric :=
  { f with listeners := f.listeners.set l ((f.listeners[l]).set t a) }

/-- R116, R117. A FREE source passes checks 3 and 4, but a frozen emitter of the line is found there (R116). -/
def setEmitter (body : List Byte) (s : State) : Answer :=
  match body with
  | [lb, cb, kb, rb] =>
    match idOf 8 lb, idOf 16 cb, eventOf kb, flagOf rb with
    | some l, some ch, some k, some r =>
      if s.wrongKind ch k then .refuse .badRole
      else if s.isFrozen ch || s.lineFrozen l then .refuse .frozen
      else if s.channels[ch] = none then .refuse .badState
      else if s.fabric.emitters[l] ≠ none then .refuse .conflict
      else
        .succeed { s with fabric := s.fabric.withEmitter l (some { source := ch, kind := k, report := r }) } [lb]
    | _, _, _, _ => .refuse .badField
  | _ => .refuse .badLength

/-- R118. -/
def clearEmitter (body : List Byte) (s : State) : Answer :=
  match body with
  | [lb] =>
    match idOf 8 lb with
    | none => .refuse .badField
    | some l =>
      match s.fabric.emitters[l] with
      | none => .refuse .notFound
      | some e =>
        if s.isFrozen e.source then .refuse .frozen
        else .succeed { s with fabric := s.fabric.withEmitter l none } [idByte e.source, eventByte e.kind]
  | _ => .refuse .badLength

/-- R120. -/
def addListener (body : List Byte) (s : State) : Answer :=
  match body with
  | [lb, cb, ab] =>
    match idOf 8 lb, idOf 16 cb, actionOf ab with
    | some l, some ch, some a =>
      match s.channels[ch] with
      | none => .refuse .badState
      | some c =>
        if c.role.accepts a = false then .refuse .badRole
        else if c.frozen then .refuse .frozen
        else if s.fabric.listeners[l][ch] ≠ none then .refuse .conflict
        else if Config.listenerEntries ≤ s.fabric.entries.length then .refuse .noSpace
        else
          let fabric := s.fabric.withListener l ch (some a)
          .succeed { s with fabric := fabric } [byte1 fabric.entries.length]
    | _, _, _ => .refuse .badField
  | _ => .refuse .badLength

/-- The target holds a pending delivery from the line (R121). -/
def State.pendingFrom (s : State) (l : LineId) (ch : ChannelId) : Bool :=
  match s.channels[ch] with
  | none => false
  | some c => (c.deliveries[l]).isSome

/-- R121. -/
def removeListener (body : List Byte) (s : State) : Answer :=
  match body with
  | [lb, cb] =>
    match idOf 8 lb, idOf 16 cb with
    | some l, some ch =>
      if s.isFrozen ch then .refuse .frozen
      else
        match s.fabric.listeners[l][ch] with
        | none => .refuse .notFound
        | some a =>
          .succeed { s with fabric := s.fabric.withListener l ch none } [actionByte a, flagByte (s.pendingFrom l ch)]
    | _, _ => .refuse .badField
  | _ => .refuse .badLength

/-- R122, R167. -/
def queryFabric (body : List Byte) (s : State) : Answer :=
  match body with
  | [] =>
    .succeed s (lines.flatMap (fun l => emitterBytes s.fabric.emitters[l]) ++
      [byte1 s.fabric.entries.length] ++ s.fabric.entries.flatMap listenerBytes)
  | _ => .refuse .badLength

/-! ### The rows -/

/-- SET_EMITTER (R116, R117). -/
def execSetEmitter (tag : Byte) (body : List Byte) (s : State) : Host.Outcome State Fault Refusal :=
  .next (s.request ⟨0x30, tag, body⟩ setEmitter)

/-- CLEAR_EMITTER (R118). -/
def execClearEmitter (tag : Byte) (body : List Byte) (s : State) : Host.Outcome State Fault Refusal :=
  .next (s.request ⟨0x31, tag, body⟩ clearEmitter)

/-- ADD_LISTENER (R120). -/
def execAddListener (tag : Byte) (body : List Byte) (s : State) : Host.Outcome State Fault Refusal :=
  .next (s.request ⟨0x32, tag, body⟩ addListener)

/-- REMOVE_LISTENER (R121). -/
def execRemoveListener (tag : Byte) (body : List Byte) (s : State) : Host.Outcome State Fault Refusal :=
  .next (s.request ⟨0x33, tag, body⟩ removeListener)

/-- QUERY_FABRIC (R122). -/
def execQueryFabric (tag : Byte) (body : List Byte) (s : State) : Host.Outcome State Fault Refusal :=
  .next (s.request ⟨0x34, tag, body⟩ queryFabric)

end Sys2Proof.Machine
end

