-- ==== Sys2Proof/Machine/Patterns.lean ====
section
/-! DEFINITION. The requests of the pattern store: DEFINE_PATTERN, DELETE_PATTERN, QUERY_PATTERN (chapter 1). -/

namespace Sys2Proof.Machine

/-- R6, R7: the fields of a DEFINE_PATTERN body: the row and the pattern, or the status that refuses it. -/
def patternOf (body : List Byte) : Except Status (PatternId × Pattern) :=
  match body with
  | id :: r1 :: r0 :: rest :: count :: segs =>
    if body.length ≠ 5 + 3 * (count.toNat + 1) then .error .badLength
    else if Config.maxSegments < count.toNat + 1 then .error .badField
    else
      match idOf 32 id, restOf rest, segmentsOf segs with
      | some p, some l, some gs => .ok (p, { segments := gs, repeatCount := number2 r1 r0, rest := l })
      | _, _, _ => .error .badField
  | _ => .error .badLength

/-- Slots of the pool that a row's pattern holds. -/
def PatternRow.slots (r : PatternRow) : Nat :=
  match r.pattern with
  | none => 0
  | some p => p.segments.length

/-- The row becomes DEFINED with this pattern and user count 0 (R8, R10). -/
def PatternStore.define (t : PatternStore) (i : PatternId) (p : Pattern) : PatternStore :=
  { rows := t.rows.set i { pattern := some p, users := 0 }
    free := t.free + t.rows[i].slots - p.segments.length
    defined := if t.rows[i].pattern = none then t.defined + 1 else t.defined }

/-- The row becomes EMPTY and its slots are freed (R12). -/
def PatternStore.delete (t : PatternStore) (i : PatternId) : PatternStore :=
  { rows := t.rows.set i { pattern := none, users := 0 }
    free := t.free + t.rows[i].slots
    defined := t.defined - 1 }

/-- R6 to R10. The space test of R8 and R10: a row's own slots, none in an EMPTY row, count as free. -/
def definePattern (body : List Byte) (s : State) : Answer :=
  match patternOf body with
  | .error st => .refuse st
  | .ok (i, p) =>
    if s.store.rows[i].pattern ≠ none ∧ 0 < s.store.rows[i].users then .refuse .inUse
    else if s.store.free + s.store.rows[i].slots < p.segments.length then .refuse .noSpace
    else
      let store := s.store.define i p
      .succeed { s with store := store } (bytes2 store.free)

/-- R12. -/
def deletePattern (body : List Byte) (s : State) : Answer :=
  match body with
  | [id] =>
    match idOf 32 id with
    | none => .refuse .badField
    | some i =>
      if s.store.rows[i].pattern = none then .refuse .notFound
      else if 0 < s.store.rows[i].users then .refuse .inUse
      else
        let store := s.store.delete i
        .succeed { s with store := store } (bytes2 store.free)
  | _ => .refuse .badLength

/-- R13, R167. -/
def queryPattern (body : List Byte) (s : State) : Answer :=
  match body with
  | [id] =>
    match idOf 32 id with
    | none => .refuse .badField
    | some i =>
      match s.store.rows[i].pattern with
      | none => .succeed s [id, 0]
      | some p =>
        .succeed s ([id, 1] ++ bytes2 p.repeatCount ++
          [restByte p.rest, byte1 s.store.rows[i].users, byte1 (p.segments.length - 1)] ++ p.segments.flatMap segmentBytes)
  | _ => .refuse .badLength

/-! ### The rows -/

/-- DEFINE_PATTERN (R6 to R10). -/
def execDefinePattern (tag : Byte) (body : List Byte) (s : State) : Host.Outcome State Fault Refusal :=
  .next (s.request ⟨0x10, tag, body⟩ definePattern)

/-- DELETE_PATTERN (R12). -/
def execDeletePattern (tag : Byte) (body : List Byte) (s : State) : Host.Outcome State Fault Refusal :=
  .next (s.request ⟨0x11, tag, body⟩ deletePattern)

/-- QUERY_PATTERN (R13). -/
def execQueryPattern (tag : Byte) (body : List Byte) (s : State) : Host.Outcome State Fault Refusal :=
  .next (s.request ⟨0x12, tag, body⟩ queryPattern)

end Sys2Proof.Machine
end

