-- ==== Sys2Proof/Machine/Serial.lean ====
section
/-! DEFINITION. The receiver, the transmitter, the link reset, the cold reset and the HOLD_N filter's change (chapters 8
and 9): BAD_KIND, FRAME_END, BAD_LEN, GAP_TIMEOUT, LINK_RESET, TRANSMITTER_FREE, COLD_RESET, PIN_HOLD_CHANGE, BYTE_ARRIVES,
FRAMING_ERROR. -/

namespace Sys2Proof.Machine

/-! ### Receiver (R142 to R145) -/

/-- The receiver enters another state; the gap timer starts again at a byte and stands at 0 in HUNTING (R144). -/
def State.receiving (s : State) (r : Receiver) : State :=
  { s with link := { s.link with receiver := r, gapTimer := 0 } }

/-- R143: a LEN byte that names no length. -/
def badLength (b : Byte) : Bool := decide (b.toNat < 2 ∨ 250 < b.toNat)

/-- R145: the frame is judged. `content` is KIND, TAG and BODY. -/
def State.judge (s : State) (content : List Byte) (crcHigh crcLow : Byte) : State :=
  let t := s.receiving .hunting
  if crcOf (byte1 content.length :: content) ≠ crcHigh ++ crcLow then t.notice .crc
  else
    match content with
    | kind :: tag :: body =>
      if 0x80 ≤ kind.toNat then t.notice .kind
      else { t with link := t.link.arrive ⟨kind, tag, body⟩ }
    | _ => t

/-- R142: a byte of CONTENT; after the last of LEN the receiver is in TRAILER. -/
def contentByte (len : Nat) (got : List Byte) (b : Byte) : Receiver :=
  if len ≤ got.length + 1 then .trailer (got ++ [b]) none else .content len (got ++ [b])

/-- R142: a byte is taken in the receiver's present state. -/
def State.receiveByte (s : State) (b : Byte) : State :=
  match s.link.receiver with
  | .hunting => if b = Config.sync then s.receiving .length else s
  | .length =>
    if badLength b then (s.receiving .hunting).notice .length else s.receiving (.content b.toNat [])
  | .content len got => s.receiving (contentByte len got b)
  | .trailer content none => s.receiving (.trailer content (some b))
  | .trailer content (some hi) => s.judge content hi b

/-- R144: the frame in progress is discarded; the timer does not run in HUNTING. -/
def State.gapExpires (s : State) : State :=
  match s.link.receiver with
  | .hunting => s
  | _ => (s.receiving .hunting).notice .gapTimeout

/-- R139: after a framing error the receiver waits for LRX high; the gap timer is not touched (R144). -/
def State.framingError (s : State) : State := { s with link := { s.link with sampler := .waitHigh } }

/-! ### Link reset (R159) -/

/-- R159 steps 1 to 4. -/
def Link.resetLink (k : Link) : Link :=
  { k with receiver := .hunting, gapTimer := 0, requests := [], replies := [], replay := [], credit := 0 }

/-- R159. -/
def State.linkReset (s : State) : State := { s with link := s.link.resetLink }.notice .linkReset

/-! ### Transmitter (R153, R155) -/

/-- A frame begins to be sent. -/
def Link.send (k : Link) (f : Frame) : Link := { k with transmission := some { bytes := f.bytes, elapsed := 0 } }

/-- R155: a departing report makes a GAP due when reports were lost: `gapFirst` appends it at once, else it is tried at the end of the
base tick, after any new report of it. -/
def Link.tryGap (k : Link) (gapFirst : Bool) : Link :=
  if gapFirst then k.appendGap else { k with gapDue := decide (0 < k.lost) }

/-- R153: the transmitter is free and is given its next frame. -/
def Link.transmitNext (k : Link) (gapFirst : Bool) : Link :=
  match k.replies with
  | f :: rest => { k with replies := rest }.send f
  | [] =>
    match k.reports with
    | r :: rest =>
      if k.credit = 0 then { k with transmission := none }
      else ({ k with reports := rest, credit := k.credit - 1 }.send (reportFrame r)).tryGap gapFirst
    | [] => { k with transmission := none }

/-- The end of a base tick: a GAP still due is tried (R155). -/
def Link.settleGap (k : Link) : Link :=
  if k.gapDue then { k.appendGap with gapDue := false } else k

/-! ### Cold reset (R161) -/

/-- Every block at its cold-reset value; what is outside the part is kept. -/
def State.toCold (s : State) : State :=
  { State.cold with script := s.script, unscripted := s.unscripted, pending := s.pending }

/-- R161: the part enters cold reset. LTX and ATTN_N are high and the timing pins not driven, since every queue is empty and every channel FREE. -/
def State.enterColdReset (s : State) : State := { s.toCold with inColdReset := true }

/-- The pin hold that HOLD_N gives at the end of cold reset (R138). -/
def pinHoldOf : Sample → PinHold
  | .low => .asserted
  | .high => .deasserted

/-- R161, R138: the base tick at which the cold reset ends is device time 0. LRX is sampled there: low begins a character and a low run (R139, R140). -/
def State.endColdReset (s : State) (holdN lrx : Sample) : State :=
  let t := s.toCold
  let k : Link :=
    match lrx with
    | .high => t.link
    | .low => { t.link with sampler := .sampling 0 [], lowRun := 1 }
  { t with hold := { pinHold := pinHoldOf holdN, runCount := 0, request := false }, link := k }.notice .coldStart

/-! ### The rows -/

/-- A row that happens only while the part is not in cold reset (notes/assumptions/8.md). -/
def State.working (s : State) (t : State) : State := if s.inColdReset then s else t

/-- BAD_KIND (R149). A KIND of 0x80 or above is no request (R145), and an assigned one has its own row: nothing happens. -/
def execBadKind (kind tag : Byte) (body : List Byte) (s : State) : Host.Outcome State Fault Refusal :=
  .next (if assigned kind ∨ 0x80 ≤ kind.toNat then s
    else s.request ⟨kind, tag, body⟩ fun _ _ => .refuse .badKind)

/-- FRAME_END (R145): the byte is the second CRC byte of the frame in progress; in any other state of the receiver no frame ends. -/
def execFrameEnd (byte : Byte) (s : State) : Host.Outcome State Fault Refusal :=
  .next (s.working
    (match s.link.receiver with
      | .trailer content (some hi) => s.judge content hi byte
      | _ => s))

/-- BAD_LEN (R143): the byte is a LEN byte of 0, 1 or 251–255; otherwise no frame ends so. -/
def execBadLen (byte : Byte) (s : State) : Host.Outcome State Fault Refusal :=
  .next (s.working
    (if s.link.receiver = .length ∧ badLength byte = true then (s.receiving .hunting).notice .length else s))

/-- GAP_TIMEOUT (R144). -/
def execGapTimeout (s : State) : Host.Outcome State Fault Refusal := .next (s.working s.gapExpires)

/-- LINK_RESET (R159). DESIGN CHOICE (notes/assumptions/24.md): as a command it leaves the break detector's run of low samples and the
character sampler as they are. -/
def execLinkReset (s : State) : Host.Outcome State Fault Refusal := .next (s.working s.linkReset)

/-- TRANSMITTER_FREE (R153): the transmitter finishes its frame, or is free, and is given the next. -/
def execTransmitterFree (gapFirst : Bool) (s : State) : Host.Outcome State Fault Refusal :=
  .next (s.working { s with link := s.link.transmitNext gapFirst })

/-- COLD_RESET (R161). -/
def execColdReset (holdN lrx : Sample) (s : State) : Host.Outcome State Fault Refusal := .next (s.endColdReset holdN lrx)

/-- PIN_HOLD_CHANGE (R130). -/
def execPinHoldChange (s : State) : Host.Outcome State Fault Refusal := .next (s.working s.changePinHold)

/-- BYTE_ARRIVES (R142). DESIGN CHOICE (notes/assumptions/24.md): as a command it leaves the character sampler and the break detector's run
as they are. -/
def execByteArrives (byte : Byte) (s : State) : Host.Outcome State Fault Refusal := .next (s.working (s.receiveByte byte))

/-- FRAMING_ERROR (R139). DESIGN CHOICE (notes/assumptions/24.md): as a command it leaves the break detector's run as it is. -/
def execFramingError (s : State) : Host.Outcome State Fault Refusal := .next (s.working s.framingError)

end Sys2Proof.Machine
end

