-- ==== Sys2Proof/Machine/Capture.lean ====
section
/-! DEFINITION. An input channel in RUNNING: captures, the limit, qualification and the timeout window (chapter 6). -/

namespace Sys2Proof.Machine

/-- The interval a capture or an expiry at `time` carries (R96, R98, R101): from the last capture time, modulo 2^48. -/
def InputRole.interval (i : InputRole) (time : Time) : Option Time :=
  match i.mode, i.lastCapture with
  | .interval, some t => some (time - t)
  | _, _ => none

/-- R96, R97: the record after a capture. -/
def InputRole.captured (i : InputRole) (time : Time) : InputRole :=
  { i with captures := countUp i.captures, lastCapture := some time }

/-- R96 steps 1 to 5, R105: a capture with its CAPTURE report. -/
def State.capture (s : State) (ch : ChannelId) (kind : CaptureKind) (time : Time) : State :=
  match s.inputChannel ch with
  | none => s
  | some (c, i) =>
    (s.setChannel ch (some { c with role := .input (i.captured time) })).report
      (.capture ch kind (countUp i.captures) time (i.interval time))

/-- R44, R90: back to WAITING (TRIGGER) with rearm set; the last capture time is kept. -/
def Channel.rearmInput (c : Channel) (i : InputRole) : Channel :=
  { c with activity := .waiting, startCondition := .trigger
           role := .input { i with captures := 0, accepted := none, qual := none, timeoutLeft := none } }

/-- R44, R90: entry to DONE at the limit. -/
def Channel.limitReached (c : Channel) : Channel := { c with activity := .done, role := c.role.cut }

/-- R99: the limit test after a capture, with the end of play. -/
def State.testLimit (s : State) (ch : ChannelId) : State :=
  match s.inputChannel ch with
  | none => s
  | some (_, i) =>
    if i.limit ≠ 0 ∧ i.captures = i.limit then
      let t := s.raise ch .limit
      match t.inputChannel ch with
      | none => t
      | some (c, i) =>
        if c.rearm then t.setChannel ch (some (c.rearmInput i))
        else (t.setChannel ch (some c.limitReached)).report (.state ch .doneLimit s.time)
    else s

/-- R100: the timeout remaining when the window starts. -/
def InputRole.windowStart (i : InputRole) : Option Nat :=
  if i.timeoutWindow = 0 then none else some i.timeoutWindow

/-- The window starts at this tick. -/
def State.startWindow (s : State) (ch : ChannelId) : State :=
  s.updateChannel ch fun c => c.updateInput fun i => { i with timeoutLeft := i.windowStart }

/-- R95: a direction matches the edge select; `candidate` is the level after the edge. -/
def EdgeSelect.admits : EdgeSelect → Sample → Bool
  | .both, _ => true
  | .rise, .high => true
  | .fall, .low => true
  | _, _ => false

/-- R95: the direction of an accepted edge. -/
def edgeKind : Sample → CaptureKind
  | .high => .rise
  | .low => .fall

/-- R95, R96: an edge to `candidate` is accepted at this tick with time `start`. -/
def State.acceptEdge (s : State) (ch : ChannelId) (candidate : Sample) (start : Time) : State :=
  match s.inputChannel ch with
  | none => s
  | some (c, i) =>
    let t := s.setChannel ch (some { c with role := .input { i with accepted := some candidate, qual := none } })
    if i.edgeSelect.admits candidate then
      ((((t.capture ch (edgeKind candidate) start).raise ch .edge).startWindow ch).testLimit ch)
    else t

/-- What one sample does to a channel past its first RUNNING tick (R93, R94). -/
inductive SampleOutcome where
  /-- Nothing in progress and no change of level. -/
  | steady
  /-- A qualification starts, goes on (with this count), or is abandoned. -/
  | qualify (q : Option Qualification)
  /-- An edge to this level is accepted, with this time. -/
  | accept (candidate : Sample) (start : Time)
deriving DecidableEq, Repr

/-- R93, R94: the outcome of a sample, from the record alone. -/
def InputRole.sampleOutcome (i : InputRole) (accepted : Sample) (sample : Sample) (now : Time) : SampleOutcome :=
  match i.qual with
  | none =>
    if sample = accepted then .steady
    else if i.window = 0 then .accept sample now
    else .qualify (some { candidate := sample, start := now, count := 0 })
  | some q =>
    if sample = q.candidate then
      (if i.window ≤ q.count + 1 then .accept q.candidate q.start
       else .qualify (some { q with count := q.count + 1 }))
    else .qualify none

/-- R100 to R102: the timeout window expires at this tick. -/
def State.expire (s : State) (ch : ChannelId) : State :=
  match s.inputChannel ch with
  | none => s
  | some (_, i) =>
    let t := (s.report (.capture ch .timeout i.captures s.time (i.interval s.time))).raise ch .timeout
    match i.timeoutAction with
    | .report => t.startWindow ch
    | .halt => (t.updateChannel ch fun c => c.halt .timeout).report (.state ch .haltedTimeout s.time)

/-- R100: the window is counted at this tick, and expires when it reaches 0. -/
def State.countWindow (s : State) (ch : ChannelId) : State :=
  match s.inputChannel ch with
  | none => s
  | some (_, i) =>
    match i.timeoutLeft with
    | none => s
    | some n =>
      if n ≤ 1 then s.expire ch
      else s.updateChannel ch fun c => c.updateInput fun i => { i with timeoutLeft := some (n - 1) }

/-- R92: the first RUNNING tick of a run. -/
def State.firstSample (s : State) (ch : ChannelId) (sample : Sample) : State :=
  (s.updateChannel ch fun c => c.updateInput fun i => { i with accepted := some sample }).startWindow ch

/-- R103: the edge that a sample makes the channel accept, when it does. -/
def InputRole.acceptedEdge (i : InputRole) (sample : Sample) (now : Time) : Option (Sample × Time) :=
  match i.accepted with
  | none => none
  | some a =>
    match i.sampleOutcome a sample now with
    | .accept cand start => some (cand, start)
    | _ => none

/-- R104 steps 2 to 4: the own work of an input channel that is RUNNING. -/
def State.inputWork (s : State) (ch : ChannelId) (sample : Sample) : State :=
  match s.inputChannel ch with
  | none => s
  | some (_, i) =>
    match i.accepted with
    | none => s.firstSample ch sample
    | some a =>
      match i.sampleOutcome a sample s.time with
      | .steady => s.countWindow ch
      | .qualify q => (s.updateChannel ch fun c => c.updateInput fun i => { i with qual := q }).countWindow ch
      | .accept cand start =>
        if i.edgeSelect.admits cand then s.acceptEdge ch cand start
        else (s.acceptEdge ch cand start).countWindow ch

/-- R105, R106: a STAMP makes a LINKED capture, and then the limit test follows. -/
def State.stamp (s : State) (ch : ChannelId) (d : Delivery) : State :=
  (s.capture ch (.linked d.count) d.firstTime).testLimit ch

end Sys2Proof.Machine
end

