-- ==== Sys2Proof/Machine/Play.lean ====
section
/-! DEFINITION. Play of an output channel: entry, the count, the segment end, the swap, the end of play (chapters 4 and 5). -/

namespace Sys2Proof.Machine

/-- Segment `i` of a pattern begins (R53, R56, R57, R67, R79). -/
def OutputRole.begin (o : OutputRole) (p : Pattern) (i : Nat) : OutputRole :=
  match p.segments[i]? with
  | none => o
  | some g => { o with segIndex := i, ticksLeft := some g.duration }

/-- Segment `i` of the active pattern begins at channel `ch`, with repetitions completed as given. -/
def State.beginSegment (s : State) (ch : ChannelId) (p : Pattern) (i reps : Nat) : State :=
  s.updateChannel ch fun c => c.updateOutput fun o => { o.begin p i with reps := reps }

/-- R43, R53: entry to RUNNING: BEGIN is raised; an output channel begins segment 0 of its active pattern, and its
repetitions completed stay where they were. -/
def State.enterRunning (s : State) (ch : ChannelId) : State :=
  match s.channels[ch] with
  | none => s
  | some c =>
    let role := match c.role with
      | .input i => Role.input i
      | .output o =>
        match s.activePattern o with
        | none => Role.output o
        | some p => Role.output (o.begin p 0)
    (s.setChannel ch (some { c with activity := .running, role := role })).raise ch .begin

/-- The output-role fields after a swap (R79): the staged reference is the active one and segment 0 of its pattern begins. -/
def OutputRole.swapped (o : OutputRole) (store : PatternStore) (g : Staged) : OutputRole :=
  let q : OutputRole := { o with active := some g.pattern, staged := none, segIndex := 0, reps := 0 }
  match store.rows[g.pattern].pattern with
  | none => q
  | some p => q.begin p 0

/-- R79, R80: the swap, then the SWAP event, then the SWAP report. -/
def State.swap (s : State) (ch : ChannelId) (cause : SwapCause) : State :=
  match s.outputChannel ch with
  | none => s
  | some (c, o) =>
    match o.staged with
    | none => s
    | some g =>
      let t : State := { s with store := s.store.releaseField o.active }
      ((t.setChannel ch (some { c with role := .output (o.swapped s.store g) })).raise ch .swap).report
        (.swap ch o.active g.pattern cause s.time)

/-- The level of the last segment of a list, for LAST (R4). -/
def Pattern.lastLevel (p : Pattern) (otherwise : Level) : Level :=
  match p.segments.getLast? with
  | none => otherwise
  | some g => g.level

/-- R58, R63: the level an output pin takes at the entry to DONE. -/
def Pattern.doneLevel (p : Pattern) (otherwise : Level) : Level :=
  match p.rest with
  | .low => .low
  | .high => .high
  | .float => .float
  | .last => p.lastLevel otherwise

/-- R58: entry to DONE with rearm clear. -/
def Channel.finish (c : Channel) (o : OutputRole) (p : Pattern) : Channel :=
  { c with activity := .done
           role := .output { o with ticksLeft := none, doneLevel := some (p.doneLevel o.idleLevel) } }

/-- R59: back to WAITING (TRIGGER) with rearm set. -/
def Channel.rearmOutput (c : Channel) (o : OutputRole) : Channel :=
  { c with activity := .waiting, startCondition := .trigger
           role := .output { o with segIndex := 0, reps := 0, ticksLeft := none } }

/-- R58, R59: the end of play of an output channel, at this tick. -/
def State.endPlay (s : State) (ch : ChannelId) (p : Pattern) : State :=
  let t := s.raise ch .done
  match t.outputChannel ch with
  | none => t
  | some (c, o) =>
    if c.rearm then t.setChannel ch (some (c.rearmOutput o))
    else (t.setChannel ch (some (c.finish o p))).report (.state ch .doneFinished s.time)

/-- The channel holds a staged pattern with this swap point. -/
def OutputRole.stagedAt (o : OutputRole) (w : SwapPoint) : Bool :=
  match o.staged with
  | none => false
  | some g => decide (g.point = w)

/-- R57: a repetition is complete. `o` is the record at the tick. -/
def State.endRepetition (s : State) (ch : ChannelId) (o : OutputRole) (p : Pattern) : State :=
  let reps := countUp o.reps
  let t := (s.updateChannel ch fun c => c.updateOutput fun o => { o with reps := reps }).raise ch .cycle
  if o.stagedAt .cycle then t.swap ch .cycle
  else if p.repeatCount = 0 ∨ reps < p.repeatCount then t.beginSegment ch p 0 reps
  else t.endPlay ch p

/-- R55: what follows the MARK of a segment end. -/
def State.afterMark (s : State) (ch : ChannelId) (o : OutputRole) (p : Pattern) : State :=
  let last := p.segments.length ≤ o.segIndex + 1
  if o.stagedAt .segment then
    (if last then s.raise ch .cycle else s).swap ch .segment
  else if last then s.endRepetition ch o p
  else s.beginSegment ch p (o.segIndex + 1) o.reps

/-- R55 to R59: the segment ends at this tick. -/
def State.endSegment (s : State) (ch : ChannelId) : State :=
  match s.outputChannel ch with
  | none => s
  | some (_, o) =>
    match s.activePattern o with
    | none => s
    | some p =>
      match p.segments[o.segIndex]? with
      | none => s
      | some g => (if g.mark then s.raise ch .mark else s).afterMark ch o p

/-- R54: the current segment is counted, and ends when the count reaches 0. -/
def State.countSegment (s : State) (ch : ChannelId) : State :=
  match s.outputChannel ch with
  | none => s
  | some (_, o) =>
    match o.ticksLeft with
    | none => s
    | some n =>
      if n ≤ 1 then s.endSegment ch
      else s.updateChannel ch fun c => c.updateOutput fun o => { o with ticksLeft := some (n - 1) }

/-- R67: RESTART begins segment 0 of the active pattern again. -/
def State.restart (s : State) (ch : ChannelId) : State :=
  match s.outputChannel ch with
  | none => s
  | some (_, o) =>
    match s.activePattern o with
    | none => s
    | some p => s.beginSegment ch p 0 0

end Sys2Proof.Machine
end

