-- ==== Sys2Proof/Machine/Tick.lean ====
section
/-! DEFINITION. The channel tick: the delivery stage, then the own-work stage (R48), and the rows of the table that are a
tick with a named thing at it. -/

namespace Sys2Proof.Machine

/-- What the delivery stage leaves: the state, and whether an output segment began in the stage, which the own-work stage
of the same tick then does not count (R48, R54). -/
structure Staging where
  state : State
  began : Bool
deriving DecidableEq, Repr

/-! ### Delivered actions (R46, R47, R67, R68, R82, R83, R105, R107, R133) -/

/-- R46, R133: a delivered START. -/
def State.deliverStart (s : State) (ch : ChannelId) : Staging :=
  match s.channels[ch] with
  | none => ⟨s, false⟩
  | some c =>
    if c.isOutput ∧ s.holdActive then ⟨s, false⟩
    else if c.activity = .waiting ∧ c.startCondition = .trigger then ⟨s.enterRunning ch, true⟩
    else ⟨s, false⟩

/-- R47: a delivered STOP. -/
def State.deliverStop (s : State) (ch : ChannelId) : Staging :=
  match s.channels[ch] with
  | none => ⟨s, false⟩
  | some c =>
    if c.inPlay then
      ⟨(s.setChannel ch (some (c.halt .linked))).report (.state ch .haltedLinked s.time), false⟩
    else ⟨s, false⟩

/-- R67, R68: a delivered RESTART. -/
def State.deliverRestart (s : State) (ch : ChannelId) : Staging :=
  match s.outputChannel ch with
  | none => ⟨s, false⟩
  | some (c, _) => if c.activity = .running then ⟨s.restart ch, true⟩ else ⟨s, false⟩

/-- R82, R83: a delivered SWAP. -/
def State.deliverSwap (s : State) (ch : ChannelId) : Staging :=
  match s.outputChannel ch with
  | none => ⟨s, false⟩
  | some (c, o) =>
    if c.activity = .running ∧ o.staged ≠ none then ⟨s.swap ch .action, true⟩ else ⟨s, false⟩

/-- R105, R107: a delivered STAMP. -/
def State.deliverStamp (s : State) (ch : ChannelId) (d : Delivery) : Staging :=
  match s.inputChannel ch with
  | none => ⟨s, false⟩
  | some (c, _) => if c.activity = .running then ⟨s.stamp ch d, false⟩ else ⟨s, false⟩

/-- A delivered action is applied. -/
def State.deliver (s : State) (ch : ChannelId) (d : Delivery) : Staging :=
  match d.action with
  | .start => s.deliverStart ch
  | .stop => s.deliverStop ch
  | .restart => s.deliverRestart ch
  | .swap => s.deliverSwap ch
  | .stamp => s.deliverStamp ch d

/-! ### The two stages (R48) -/

/-- The delivery of line `l` is due at this tick: the present device time is ahead of its first event time (R21, R126). -/
def Channel.due (c : Channel) (l : LineId) (now : Time) : Option Delivery :=
  match c.deliveries[l] with
  | none => none
  | some d => if ahead now d.firstTime then some d else none

/-- The record without the delivery of line `l`. -/
def Channel.undeliver (c : Channel) (l : LineId) : Channel := { c with deliveries := c.deliveries.set l none }

/-- R48, R126: the delivery of line `l`, when due, is removed and applied (removal first: notes/assumptions/7.md). -/
def Staging.applyLine (w : Staging) (ch : ChannelId) (l : LineId) : Staging :=
  match w.state.channels[ch] with
  | none => w
  | some c =>
    match c.due l w.state.time with
    | none => w
    | some d =>
      let r := (w.state.setChannel ch (some (c.undeliver l))).deliver ch d
      ⟨r.state, w.began || r.began⟩

/-- R48: the delivery stage, in ascending line number. -/
def State.deliveryStage (s : State) (ch : ChannelId) : Staging :=
  lines.foldl (fun w l => w.applyLine ch l) ⟨s, false⟩

/-- R43, R25: a channel in WAITING (NEXT) or WAITING (AT) meets its condition at `now`. -/
def StartCondition.met (c : StartCondition) (now : Time) : Bool :=
  match c with
  | .next t => ahead now t
  | .at t => !ahead t now
  | .trigger => false

/-- R48: the own-work stage. `began` says that an output segment began in the delivery stage of this tick. -/
def State.ownWork (s : State) (ch : ChannelId) (sample : Sample) (began : Bool) : State :=
  match s.channels[ch] with
  | none => s
  | some c =>
    match c.activity with
    | .waiting =>
      if c.startCondition.met s.time then
        (if c.isOutput then s.enterRunning ch else (s.enterRunning ch).inputWork ch sample)
      else s
    | .running =>
      if c.isOutput then (if began then s else s.countSegment ch) else s.inputWork ch sample
    | _ => s

/-- R48: one tick of channel `ch` at the present device time; a FREE channel has none. -/
def State.tickChannel (s : State) (ch : ChannelId) (sample : Sample) : State :=
  (s.deliveryStage ch).state.ownWork ch sample (s.deliveryStage ch).began

/-! ### What happens at a tick -/

/-- Some pending delivery is applied at this tick (R126). -/
def State.ticksDelivery (s : State) (ch : ChannelId) : Bool :=
  match s.channels[ch] with
  | none => false
  | some c => lines.any fun l => (c.due l s.time).isSome

/-- The own-work stage of this tick enters RUNNING (R43). -/
def State.ticksEntry (s : State) (ch : ChannelId) : Bool :=
  match (s.deliveryStage ch).state.channels[ch] with
  | none => false
  | some c => decide (c.activity = .waiting) && c.startCondition.met s.time

/-- The own-work stage of this tick ends a segment (R54). -/
def State.ticksSegmentEnd (s : State) (ch : ChannelId) : Bool :=
  match (s.deliveryStage ch).state.outputChannel ch with
  | none => false
  | some (c, o) =>
    decide (c.activity = .running) && !(s.deliveryStage ch).began &&
      (match o.ticksLeft with
        | none => false
        | some n => decide (n ≤ 1))

/-- The own-work stage of this tick accepts an edge (R93, R94). -/
def State.ticksEdge (s : State) (ch : ChannelId) (sample : Sample) : Bool :=
  match (s.deliveryStage ch).state.inputChannel ch with
  | none => false
  | some (c, i) => decide (c.activity = .running) && (i.acceptedEdge sample s.time).isSome

/-- The own-work stage of this tick counts the timeout window to 0: the channel is past its first RUNNING tick, one tick is left and no
matching edge is accepted (R100, R103). -/
def State.ticksExpiry (s : State) (ch : ChannelId) (sample : Sample) : Bool :=
  match (s.deliveryStage ch).state.inputChannel ch with
  | none => false
  | some (c, i) =>
    decide (c.activity = .running) && i.accepted.isSome &&
      (match i.timeoutLeft with
        | none => false
        | some n => decide (n ≤ 1)) &&
      (match i.acceptedEdge sample s.time with
        | none => true
        | some (cand, _) => !i.edgeSelect.admits cand)

/-- A row that is the channel's tick at which `happens`: the whole tick, when the thing happens at it and the part is not in
cold reset; nothing otherwise (notes/assumptions/5.md). -/
def State.tickWhen (s : State) (ch : ChannelId) (sample : Sample) (happens : Bool) : State :=
  if s.inColdReset = false ∧ happens = true then s.tickChannel ch sample else s

/-! ### The rows -/

/-- CHANNEL_TICK (R48). -/
def execChannelTick (ch : ChannelId) (sample : Sample) (s : State) : Host.Outcome State Fault Refusal :=
  .next (s.tickWhen ch sample true)

/-- PENDING_DELIVERY_APPLIED (R126). -/
def execPendingDeliveryApplied (ch : ChannelId) (sample : Sample) (s : State) : Host.Outcome State Fault Refusal :=
  .next (s.tickWhen ch sample (s.ticksDelivery ch))

/-- ENTER_RUNNING (R43). -/
def execEnterRunning (ch : ChannelId) (sample : Sample) (s : State) : Host.Outcome State Fault Refusal :=
  .next (s.tickWhen ch sample (s.ticksEntry ch))

/-- SEGMENT_END (R55). -/
def execSegmentEnd (ch : ChannelId) (sample : Sample) (s : State) : Host.Outcome State Fault Refusal :=
  .next (s.tickWhen ch sample (s.ticksSegmentEnd ch))

/-- EDGE_ACCEPTED (R95). -/
def execEdgeAccepted (ch : ChannelId) (sample : Sample) (s : State) : Host.Outcome State Fault Refusal :=
  .next (s.tickWhen ch sample (s.ticksEdge ch sample))

/-- TIMEOUT_EXPIRY (R101). -/
def execTimeoutExpiry (ch : ChannelId) (sample : Sample) (s : State) : Host.Outcome State Fault Refusal :=
  .next (s.tickWhen ch sample (s.ticksExpiry ch sample))

end Sys2Proof.Machine
end

