-- ==== Sys2Proof/Machine/Dispatch.lean ====
section
/-! DEFINITION. The effect of each command on everything but the queue: one arm per row of spec/opcode_table.json. -/

namespace Sys2Proof.Machine

def exec (i : Instr) (s : State) : Host.Outcome State Fault Refusal :=
  match i with
  | .queryDevice tag body => Sys2Proof.Machine.execQueryDevice tag body s
  | .readTime tag body => Sys2Proof.Machine.execReadTime tag body s
  | .grant tag body => Sys2Proof.Machine.execGrant tag body s
  | .deviceReset tag body => Sys2Proof.Machine.execDeviceReset tag body s
  | .setTimebase tag body => Sys2Proof.Machine.execSetTimebase tag body s
  | .hold tag body => Sys2Proof.Machine.execHold tag body s
  | .release tag body => Sys2Proof.Machine.execRelease tag body s
  | .definePattern tag body => Sys2Proof.Machine.execDefinePattern tag body s
  | .deletePattern tag body => Sys2Proof.Machine.execDeletePattern tag body s
  | .queryPattern tag body => Sys2Proof.Machine.execQueryPattern tag body s
  | .bind tag body => Sys2Proof.Machine.execBind tag body s
  | .unbind tag body => Sys2Proof.Machine.execUnbind tag body s
  | .configureOutput tag body => Sys2Proof.Machine.execConfigureOutput tag body s
  | .configureInput tag body => Sys2Proof.Machine.execConfigureInput tag body s
  | .freeze tag body => Sys2Proof.Machine.execFreeze tag body s
  | .clearChannel tag body => Sys2Proof.Machine.execClearChannel tag body s
  | .queryChannel tag body => Sys2Proof.Machine.execQueryChannel tag body s
  | .assign tag body => Sys2Proof.Machine.execAssign tag body s
  | .unstage tag body => Sys2Proof.Machine.execUnstage tag body s
  | .start tag body => Sys2Proof.Machine.execStart tag body s
  | .stop tag body => Sys2Proof.Machine.execStop tag body s
  | .setEmitter tag body => Sys2Proof.Machine.execSetEmitter tag body s
  | .clearEmitter tag body => Sys2Proof.Machine.execClearEmitter tag body s
  | .addListener tag body => Sys2Proof.Machine.execAddListener tag body s
  | .removeListener tag body => Sys2Proof.Machine.execRemoveListener tag body s
  | .queryFabric tag body => Sys2Proof.Machine.execQueryFabric tag body s
  | .badKind kind tag body => Sys2Proof.Machine.execBadKind kind tag body s
  | .frameEnd byte => Sys2Proof.Machine.execFrameEnd byte s
  | .badLen byte => Sys2Proof.Machine.execBadLen byte s
  | .gapTimeout => Sys2Proof.Machine.execGapTimeout s
  | .linkReset => Sys2Proof.Machine.execLinkReset s
  | .transmitterFree gapFirst => Sys2Proof.Machine.execTransmitterFree gapFirst s
  | .coldReset holdN lrx => Sys2Proof.Machine.execColdReset holdN lrx s
  | .pinHoldChange => Sys2Proof.Machine.execPinHoldChange s
  | .channelTick ch sample => Sys2Proof.Machine.execChannelTick ch sample s
  | .pendingDeliveryApplied ch sample => Sys2Proof.Machine.execPendingDeliveryApplied ch sample s
  | .enterRunning ch sample => Sys2Proof.Machine.execEnterRunning ch sample s
  | .segmentEnd ch sample => Sys2Proof.Machine.execSegmentEnd ch sample s
  | .edgeAccepted ch sample => Sys2Proof.Machine.execEdgeAccepted ch sample s
  | .timeoutExpiry ch sample => Sys2Proof.Machine.execTimeoutExpiry ch sample s
  | .byteArrives byte => Sys2Proof.Machine.execByteArrives byte s
  | .framingError => Sys2Proof.Machine.execFramingError s

end Sys2Proof.Machine
end

