-- ==== Sys2Proof/Machine/BaseTick.lean ====
section
/-! DEFINITION. One base tick of REFCLK: what the part does by itself while no command waits (notes/assumptions/1.md). Device time and
the phase counters count; then each unit that acts at a base tick takes one turn, in the order that the tick's inputs pick, and the reports
of the channels' ticks join the report queue in an order that the inputs pick too. -/

namespace Sys2Proof.Machine

/-! ### Counting (R19, R23) -/

/-- R23: one base tick of a timebase. -/
def Timebase.advance (t : Timebase) : Timebase :=
  if t.divisor ≤ t.phase + 1 then { t with phase := 0, tick := .due }
  else { t with phase := t.phase + 1, tick := .noTick }

/-- R19, R23: device time and the four timebases count one base tick. -/
def State.advanceClock (s : State) : State :=
  { s with time := s.time + 1, timebases := Vector.ofFn fun t : TimebaseId => s.timebases[t].advance }

/-! ### The serial line (R139, R140, R144) -/

/-- The byte of eight data bits, least significant first (R139). -/
def byteOfBits : List Bool → Nat
  | [] => 0
  | b :: bs => b.toNat + 2 * byteOfBits bs

/-- R144: the gap timer of a frame in progress counts, and expires. -/
def State.countGap (s : State) : State :=
  match s.link.receiver with
  | .hunting => s
  | _ =>
    if Config.gapLimit ≤ s.link.gapTimer + 1 then s.gapExpires
    else { s with link := { s.link with gapTimer := s.link.gapTimer + 1 } }

/-- The character sampler's next state. -/
def State.sampling (s : State) (c : CharSampler) : State := { s with link := { s.link with sampler := c } }

/-- R139: one base tick of the character sampler. -/
def State.sampleCharacter (s : State) (lrx : Sample) : State :=
  match s.link.sampler with
  | .idle => if lrx = .low then s.sampling (.sampling 0 []) else s
  | .waitHigh => if lrx = .high then s.sampling .idle else s
  | .sampling age bits =>
    if Config.stopBitTick ≤ age + 1 then
      (if lrx = .high then (s.sampling .idle).receiveByte (BitVec.ofNat 8 (byteOfBits bits)) else s.framingError)
    else if Config.firstBitTick ≤ age + 1 ∧ (age + 1 - Config.firstBitTick) % Config.bitTicks = 0 then
      s.sampling (.sampling (age + 1) (bits ++ [decide (lrx = .high)]))
    else s.sampling (.sampling (age + 1) bits)

/-- R140: the run of low samples, and the end of a break. -/
def State.detectBreak (s : State) (lrx : Sample) : State :=
  match lrx with
  | .low => { s with link := { s.link with lowRun := min (s.link.lowRun + 1) Config.breakSamples } }
  | .high =>
    let t : State := { s with link := { s.link with lowRun := 0 } }
    if Config.breakSamples ≤ s.link.lowRun then t.linkReset else t

/-- The receiver's turn (the order inside it: notes/assumptions/13.md). -/
def State.receiverTurn (s : State) (lrx : Sample) : State := ((s.countGap).sampleCharacter lrx).detectBreak lrx

/-! ### The other units -/

/-- R139, R153: the transmitter's turn. -/
def State.transmitterTurn (s : State) (gapFirst : Bool) : State :=
  match s.link.transmission with
  | none => { s with link := s.link.transmitNext gapFirst }
  | some t =>
    if Config.characterTicks * t.bytes.length ≤ t.elapsed + 1 then { s with link := s.link.transmitNext gapFirst }
    else { s with link := { s.link with transmission := some { t with elapsed := t.elapsed + 1 } } }

/-- R130: the HOLD_N filter's turn. -/
def State.holdTurn (s : State) (holdN : Sample) : State :=
  if pinHoldOf holdN = s.hold.pinHold then { s with hold := { s.hold with runCount := 0 } }
  else if Config.holdSamples ≤ s.hold.runCount + 1 then s.changePinHold
  else { s with hold := { s.hold with runCount := s.hold.runCount + 1 } }

/-- The state a command leaves; a command that does not answer a next state leaves it as it was (none does so). -/
def State.afterCommand (s : State) (i : Instr) : State :=
  match exec i s with
  | .next t => t
  | .fault _ => s
  | .refused _ => s

/-- R149: the executor's turn: it takes the oldest request when the reply queue has room. -/
def State.executorTurn (s : State) : State :=
  match s.link.requests with
  | [] => s
  | r :: _ => if s.link.replies.length < Config.replySlots then s.afterCommand r.command else s

/-- The timebase's tick of this base tick is taken by a channel (R28). -/
def Timebase.take (t : Timebase) : Timebase := { t with tick := .taken }

/-- R24, R48: a channel's turn: its tick, when its timebase ticks at this base tick. -/
def State.channelTurn (s : State) (ch : ChannelId) (pins : Vector Sample 20) : State :=
  match s.channels[ch] with
  | none => s
  | some c =>
    if s.timebases[c.timebase].tick = .noTick then s
    else
      { s with timebases := s.timebases.set c.timebase (s.timebases[c.timebase].take) }.tickChannel ch pins[c.pin]

/-! ### The order of a base tick -/

/-- The units that act at a base tick. -/
inductive TickUnit where
  | executor
  | receiver
  | transmitter
  | holdFilter
  | channel (ch : ChannelId)
deriving DecidableEq, Repr

def tickUnits : List TickUnit :=
  [.executor, .receiver, .transmitter, .holdFilter] ++ channelIds.map TickUnit.channel

/-- Successive picks from what remains; what no pick names comes last, in its own order. Every order of `xs` is some picks' order. -/
def arrange {α : Type} : List Nat → List α → List α
  | [], xs => xs
  | k :: ks, xs =>
    match xs[k % xs.length]? with
    | none => xs
    | some x => x :: arrange ks (xs.eraseIdx (k % xs.length))

/-- One unit's turn. -/
def State.turn (i : Config.TickInputs) (s : State) (u : TickUnit) : State :=
  match u with
  | .executor => s.executorTurn
  | .receiver => s.receiverTurn i.lrx
  | .transmitter => s.transmitterTurn i.gapFirst
  | .holdFilter => s.holdTurn i.holdN
  | .channel ch => s.channelTurn ch i.pins

/-- R155: a GAP still due is tried. -/
def State.settleGap (s : State) : State := { s with link := s.link.settleGap }

/-! ### The order of the units when a break ends (R17, R89, R159) -/

/-- A break ends at this base tick, and its link reset is taken in the receiver's turn (R140). -/
def State.breakEnds (s : State) (lrx : Sample) : Bool := decide (lrx = .high ∧ Config.breakSamples ≤ s.link.lowRun)

/-- The transmitter would choose after the executor and before the receiver. -/
def transmitterBetween (us : List TickUnit) : Bool :=
  decide (us.idxOf .executor < us.idxOf .transmitter ∧ us.idxOf .transmitter < us.idxOf .receiver)

/-- The order of the units at this base tick. R159: the link reset removes the reply of a request taken at its base tick, and the host does
not receive it; so when a break ends, the transmitter does not choose between the executor and the receiver, but last. -/
def State.unitOrder (s : State) (i : Config.TickInputs) : List TickUnit :=
  let us := arrange i.order tickUnits
  if s.breakEnds i.lrx ∧ transmitterBetween us then us.erase .transmitter ++ [.transmitter] else us

/-! ### The order of the reports (R60, R154, R155) -/

/-- Successive picks among the lists that still hold something, each taking the front of the list it names; what no pick names follows,
list after list. Every merge that keeps the order within each list is some picks' merge. -/
def interleave {α : Type} : List Nat → List (List α) → List α
  | [], xss => xss.flatten
  | k :: ks, xss =>
    let live := xss.filter fun xs => !xs.isEmpty
    match live[k % live.length]? with
    | some (x :: xs) => x :: interleave ks (live.set (k % live.length) xs)
    | _ => []

/-- One step at the report queue: a report that a channel's tick raised is appended, or the receiver or the transmitter takes its turn. -/
inductive LinkStep where
  | append (b : ReportBody)
  | receive
  | transmit
deriving DecidableEq, Repr

def State.linkStep (i : Config.TickInputs) (s : State) (x : LinkStep) : State :=
  match x with
  | .append b => s.report b
  | .receive => State.turn i s .receiver
  | .transmit => State.turn i s .transmitter

/-- The turns of one base tick so far. -/
structure Round where
  state : State
  /-- The turns of the receiver and the transmitter that wait to be taken, in order. -/
  linkTurns : List LinkStep
  /-- The reports that wait to be appended: a list for each channel's tick, in the order in which it raised them. -/
  raised : List (List LinkStep)
  /-- The picks left for the order of the reports. -/
  picks : List Nat
deriving DecidableEq, Repr

/-- What waits at the report queue is done, in the order that the picks give: the reports of one tick keep their order, and between them
may come those of another (R60) and the turns of the receiver and the transmitter (R154, R155). -/
def Round.settle (i : Config.TickInputs) (w : Round) : Round :=
  let steps := interleave w.picks (w.linkTurns :: w.raised)
  { state := steps.foldl (State.linkStep i) w.state, linkTurns := [], raised := [], picks := w.picks.drop steps.length }

/-- One unit's turn in a base tick. A tick is taken whole against a request and a change of hold (R49, R137), so all that waits is done
before the executor and the HOLD_N filter. A tick reads nothing of the link unit and raises at most 64 reports
(State.channelTurn_raises): they are those that it puts into an empty queue. -/
def Round.turn (i : Config.TickInputs) (w : Round) (u : TickUnit) : Round :=
  match u with
  | .executor => { w.settle i with state := State.turn i (w.settle i).state .executor }
  | .holdFilter => { w.settle i with state := State.turn i (w.settle i).state .holdFilter }
  | .receiver => { w with linkTurns := w.linkTurns ++ [.receive] }
  | .transmitter => { w with linkTurns := w.linkTurns ++ [.transmit] }
  | .channel ch =>
    let t := State.turn i { w.state with link := Link.cold } (.channel ch)
    { w with state := { t with link := w.state.link }
             raised := w.raised ++ [t.link.reports.map fun r => .append r.body] }

/-- A base tick of the working part. -/
def State.work (s : State) (i : Config.TickInputs) : State :=
  (((s.unitOrder i).foldl (Round.turn i)
    { state := s.settleGap.advanceClock, linkTurns := [], raised := [], picks := i.reportOrder }).settle i).state.settleGap

/-- R161: one base tick, with what it meets from outside. -/
def State.tickWith (s : State) (i : Config.TickInputs) : State :=
  if i.power = false then s.enterColdReset
  else if s.inColdReset then
    (if i.resetN = .high then s.endColdReset i.holdN i.lrx else s)
  else
    match i.resetN with
    | .high => { s with resetRun := 0 }.work i
    | .low =>
      if Config.resetSamples ≤ s.resetRun + 1 then s.enterColdReset
      else { s with resetRun := s.resetRun + 1 }.work i

/-- One base tick. Its inputs are the next of the script, or, where nobody scripted them, free (notes/assumptions/2.md). -/
def State.baseTick (s : State) : State :=
  match s.script with
  | i :: rest => { s with script := rest }.tickWith i
  | [] => { s with unscripted := s.unscripted + 1 }.tickWith (Config.freeInputs s.unscripted)

end Sys2Proof.Machine
end

