-- ==== Sys2Proof/WellFormed.lean ====
section
/-! DEFINITION. Which commands the outside can bring about: a request's body fits a frame, BAD_KIND carries an unassigned
request KIND, and BAD_LEN carries a LEN byte that names no length. -/

namespace Sys2Proof

/-- A request's frame can be sent: LEN, two more than the body, is at most 250 (R142), and KIND is below 0x80 (R145). -/
def requestFits (r : Machine.Request) : Bool := decide (r.body.length ≤ 248) && decide (r.kind.toNat < 0x80)

/-- The command is one the outside can bring about. -/
def Instr.wellFormed (i : Instr) : Bool :=
  match i with
  | .badKind kind tag body => requestFits ⟨kind, tag, body⟩ && !Machine.assigned kind
  | .badLen byte => decide (byte.toNat < 2 ∨ 250 < byte.toNat)
  | i =>
    match Machine.requestOf i with
    | none => true
    | some r => requestFits r

end Sys2Proof
end

