-- ==== Sys2Proof/Safety.lean ====
section
/-! DEFINITION. What a sound state is, block by block, from what the spec says of the whole part; and when the executor
takes a request. Statements and proofs speak in these terms. -/

namespace Sys2Proof.Machine

/-! ### When a request command is executed -/

/-- The executor takes `r` at this command: the part is not in cold reset, and `r`, once it has arrived, is the oldest waiting
request while the reply queue has room (R149). -/
def State.takes (s : State) (r : Request) : Bool := !s.inColdReset && (s.arrived r).ready r

/-- The state in which the block that owns `r` executes it: `r` has arrived and left the queue. -/
def State.taken (s : State) (r : Request) : State := (s.arrived r).popped

/-- The state with the executor's reply to `r` in the reply queue and the replay table (R149, R151). -/
def State.answered (s : State) (r : Request) (status : Status) (results : List Byte) : State :=
  { s with link := s.link.answer r (statusByte status :: results) }

/-- A request of this KIND whose body is not `n` bytes long is refused BAD_LENGTH, whatever its body holds (R165). -/
def State.RefusesLength (s : State) (kind tag : Byte) (command : List Byte → Instr) (n : Nat) : Prop :=
  ∀ body : List Byte, body.length ≠ n → s.takes ⟨kind, tag, body⟩ = true →
    exec (command body) s = .next ((s.taken ⟨kind, tag, body⟩).answered ⟨kind, tag, body⟩ .badLength [])

/-! ### The entry into hold (R132) -/

/-- The channel is taken out of play when hold becomes active: an output channel in WAITING or RUNNING. -/
def State.caughtByHold (s : State) (ch : ChannelId) : Bool :=
  match s.outputChannel ch with
  | none => false
  | some (c, _) => c.inPlay

/-- The channel records as the entry into hold leaves them. -/
def State.heldChannels (s : State) : Vector (Option Channel) 16 :=
  Vector.ofFn fun ch : ChannelId =>
    match s.outputChannel ch with
    | none => s.channels[ch]
    | some (c, o) =>
      if c.inPlay then
        some { c with activity := .halted, haltReason := .hold, role := .output { o with ticksLeft := none } }
      else s.channels[ch]

/-- The reports of the entry into hold: the STATE reports in ascending channel number, then the HOLD report. -/
def State.holdReports (s : State) (cause : HoldCause) : List ReportBody :=
  (channelIds.filter s.caughtByHold).map (fun ch => .state ch .haltedHold s.time) ++ [.hold true cause s.time]

/-- The reports join the report queue one after the other (R154). -/
def State.reportAll (s : State) (bs : List ReportBody) : State := { s with link := bs.foldl Link.append s.link }

/-! ### The body of a START (R164) -/

/-- The body of a START with these fields; the at-time is carried with AT alone. -/
def startBody (ch : ChannelId) (k : StartCondition) (rearm : Bool) : List Byte :=
  [idByte ch, conditionByte k, flagByte rearm] ++
    match k with
    | .at time => timeBytes time
    | _ => []

/-! ### What a tick finds (R48, R93, R94, R126) -/

/-- No pending delivery is due at `now`. -/
def Channel.NothingDue (c : Channel) (now : Time) : Prop :=
  ∀ (l : LineId) (d : Delivery), c.deliveries[l] = some d → ahead now d.firstTime = false

/-- The delivery of line `l` is the first that a tick at `now` applies. -/
def Channel.FirstDue (c : Channel) (now : Time) (l : LineId) (d : Delivery) : Prop :=
  c.deliveries[l] = some d ∧ ahead now d.firstTime = true ∧
  ∀ (k : LineId) (e : Delivery), k < l → c.deliveries[k] = some e → ahead now e.firstTime = false

/-- The delivery of line `l` is the only one that a tick at `now` applies. -/
def Channel.OnlyDue (c : Channel) (now : Time) (l : LineId) (d : Delivery) : Prop :=
  c.deliveries[l] = some d ∧ ahead now d.firstTime = true ∧
  ∀ (k : LineId) (e : Delivery), k ≠ l → c.deliveries[k] = some e → ahead now e.firstTime = false

/-- The delivery of line `l` is the first from line number `n` on that a tick at `now` applies. -/
def Channel.FirstDueFrom (c : Channel) (n : Nat) (now : Time) (l : LineId) (d : Delivery) : Prop :=
  c.deliveries[l] = some d ∧ ahead now d.firstTime = true ∧ n ≤ l.val ∧
  ∀ (k : LineId) (e : Delivery), n ≤ k.val → k < l → c.deliveries[k] = some e → ahead now e.firstTime = false

/-- The rest of a tick of channel `ch`, whose delivery stage has reached line number `n`: the deliveries of the lines from `n` on, in
ascending order, and then the own work. `began` says that an output segment began earlier in this delivery stage (R48). -/
def State.tickFrom (s : State) (ch : ChannelId) (y : Sample) (n : Nat) (began : Bool) : State :=
  let w : Staging := (lines.filter fun l => decide (n ≤ l.val)).foldl (fun w l => w.applyLine ch l) ⟨s, began⟩
  w.state.ownWork ch y w.began

/-! ### What a base tick meets (R161) -/

/-- The next base tick meets `i` from outside, and `a` is the state once that is used up: the front of the script, or, where nothing is
scripted, the free inputs (notes/assumptions/2.md). -/
def State.Meets (s : State) (i : Config.TickInputs) (a : State) : Prop :=
  (∃ rest, s.script = i :: rest ∧ a = { s with script := rest }) ∨
  (s.script = [] ∧ i = Config.freeInputs s.unscripted ∧ a = { s with unscripted := s.unscripted + 1 })

/-- `ys` is a merge of the lists: each step takes the front of one of them (R60). -/
inductive Interleaved {α : Type} : List (List α) → List α → Prop where
  | done (xss : List (List α)) : (∀ xs ∈ xss, xs = []) → Interleaved xss []
  | take (xss : List (List α)) (j : Nat) (x : α) (xs ys : List α) : xss[j]? = some (x :: xs) → Interleaved (xss.set j xs) ys →
      Interleaved xss (x :: ys)

/-! ### What a sample does (R93 to R95) -/

/-- R93, R94: the sample `y`, at `now`, makes an input channel with accepted level `a` accept an edge to a level with a start time. -/
inductive InputRole.Accepts (i : InputRole) (a y : Sample) (now : Time) : Sample → Time → Prop where
  | atOnce : i.qual = none → y ≠ a → i.window = 0 → InputRole.Accepts i a y now y now
  | qualified (q : Qualification) : i.qual = some q → y = q.candidate → i.window ≤ q.count + 1 →
      InputRole.Accepts i a y now q.candidate q.start

/-- R95: an edge to the level matches the edge select. -/
def InputRole.Matches (i : InputRole) (level : Sample) : Prop :=
  i.edgeSelect = .both ∨ (i.edgeSelect = .rise ∧ level = .high) ∨ (i.edgeSelect = .fall ∧ level = .low)

/-- R93 to R95: the record that the sample `y` leaves when no matching edge is accepted, before the window is counted. -/
inductive InputRole.Sampled (i : InputRole) (a y : Sample) (now : Time) : InputRole → Prop where
  | steady : i.qual = none → y = a → InputRole.Sampled i a y now i
  | starts : i.qual = none → y ≠ a → i.window ≠ 0 →
      InputRole.Sampled i a y now { i with qual := some { candidate := y, start := now, count := 0 } }
  | goesOn (q : Qualification) : i.qual = some q → y = q.candidate → q.count + 1 < i.window →
      InputRole.Sampled i a y now { i with qual := some { q with count := q.count + 1 } }
  | abandoned (q : Qualification) : i.qual = some q → y ≠ q.candidate →
      InputRole.Sampled i a y now { i with qual := none }
  | notMatching (level : Sample) (start : Time) : i.Accepts a y now level start → ¬i.Matches level →
      InputRole.Sampled i a y now { i with accepted := some level, qual := none }

/-! ### Wiring (R37, R39) -/

/-- What a frozen channel's owner relies on: the pin, the timebase, the frozen flag, and the role with its configuration alone. -/
def Channel.wiring (c : Channel) : PinId × TimebaseId × Bool × Role := (c.pin, c.timebase, c.frozen, c.role.cleared)

/-! ### Pattern store (R2, R5, R14) -/

/-- One reference of a pattern field to a row. -/
def fieldRefs (f : Option PatternId) (p : PatternId) : Nat := if f = some p then 1 else 0

/-- References of a channel to a row, active and staged (R14). -/
def Role.refs (r : Role) (p : PatternId) : Nat :=
  match r with
  | .input _ => 0
  | .output o => fieldRefs o.active p + fieldRefs (o.staged.map Staged.pattern) p

/-- References of a channel record; a FREE channel has none. -/
def channelRefs (c : Option Channel) (p : PatternId) : Nat :=
  match c with
  | none => 0
  | some c => c.role.refs p

/-- R5: free slots and used slots make the pool, and the DEFINED rows are counted. -/
def PatternStore.Accounted (t : PatternStore) : Prop :=
  t.free + ∑ p : PatternId, (t.rows[p]).slots = Config.poolSlots ∧
  t.defined = ∑ p : PatternId, if (t.rows[p]).pattern = none then 0 else 1

/-- R1, R2: a pattern within its ranges. -/
def Pattern.Sound (p : Pattern) : Prop :=
  1 ≤ p.segments.length ∧ p.segments.length ≤ Config.maxSegments ∧ p.repeatCount ≤ 65535 ∧
  ∀ g ∈ p.segments, 1 ≤ g.duration ∧ g.duration ≤ 65536

/-- R2: every DEFINED row holds a pattern within its ranges, and an EMPTY row has user count 0. -/
def PatternStore.Sound (t : PatternStore) : Prop :=
  ∀ p : PatternId,
    match (t.rows[p]).pattern with
    | none => (t.rows[p]).users = 0
    | some q => q.Sound

/-- R14: the user count of every row is the number of references to it. -/
def State.UsersCounted (s : State) : Prop :=
  ∀ p : PatternId, (s.store.rows[p]).users = ∑ ch : ChannelId, channelRefs s.channels[ch] p

/-! ### References given up and taken (R15, R16, R36) -/

/-- The store after: every row's user count has risen by the references taken and then fallen by those given up, and nothing
else has changed. -/
def PatternStore.Recounted (a b : PatternStore) (taken given : PatternId → Nat) : Prop :=
  b = { a with rows := b.rows } ∧
  ∀ p : PatternId, b.rows[p] = { a.rows[p] with users := (a.rows[p]).users + taken p - given p }

/-- R36 steps 1 to 5: the channel has become FREE, with its references, its fabric entries, its deliveries and its pin. -/
def State.Freed (t u : State) (ch : ChannelId) (c : Channel) : Prop :=
  u = { t with store := u.store, fabric := u.fabric, pinTable := t.pinTable.set c.pin none,
               channels := t.channels.set ch none } ∧
  t.store.Recounted u.store (fun _ => 0) c.role.refs ∧
  (∀ (l : LineId) (e : Emitter), u.fabric.emitters[l] = some e ↔ t.fabric.emitters[l] = some e ∧ e.source ≠ ch) ∧
  (∀ (l : LineId) (d : ChannelId) (a : Action),
    u.fabric.listeners[l][d] = some a ↔ t.fabric.listeners[l][d] = some a ∧ d ≠ ch)

/-! ### Timebases (R23) -/

def State.TimebasesSound (s : State) : Prop :=
  ∀ t : TimebaseId, 1 ≤ (s.timebases[t]).divisor ∧ (s.timebases[t]).divisor ≤ 65536 ∧
    (s.timebases[t]).phase < (s.timebases[t]).divisor

/-! ### Pins, fabric, hold (R33, R115, R119, R130, R132) -/

/-- R33: the table gives a pin to a channel exactly when that channel's record holds the pin. -/
def State.PinsSound (s : State) : Prop :=
  ∀ (p : PinId) (ch : ChannelId), s.pinTable[p] = some ch ↔ ∃ c, s.channels[ch] = some c ∧ c.pin = p

/-- R115, R119: sources and targets are bound, kinds and actions valid for their roles, and at most 32 listener entries. -/
def State.FabricSound (s : State) : Prop :=
  (∀ (l : LineId) (e : Emitter), s.fabric.emitters[l] = some e →
    ∃ c, s.channels[e.source] = some c ∧ c.role.raises e.kind = true) ∧
  (∀ (l : LineId) (ch : ChannelId) (a : Action), s.fabric.listeners[l][ch] = some a →
    ∃ c, s.channels[ch] = some c ∧ c.role.accepts a = true) ∧
  s.fabric.entries.length ≤ Config.listenerEntries

/-- R132, R133: while hold is active, no output channel is WAITING or RUNNING. -/
def State.HeldOut (s : State) : Prop :=
  s.holdActive = true → ∀ (ch : ChannelId) (c : Channel), s.channels[ch] = some c → c.isOutput = true → c.inPlay = false

/-! ### Link (R142, R144, R147, R151, R152, R154, R156) -/

/-- The receiver's part-read frame fits its LEN. -/
def Receiver.Sound : Receiver → Prop
  | .hunting => True
  | .length => True
  | .content len got => 2 ≤ len ∧ len ≤ 250 ∧ got.length < len
  | .trailer read _ => 2 ≤ read.length ∧ read.length ≤ 250

/-- Every collection of the link unit within its capacity. -/
def Link.Bounded (k : Link) : Prop :=
  k.requests.length ≤ Config.requestSlots ∧ k.replies.length ≤ Config.replySlots ∧
  k.replay.length ≤ Config.replaySlots ∧ k.reports.length ≤ Config.reportSlots ∧
  k.credit ≤ Config.maxCredit ∧ k.lost ≤ Config.countMax ∧ k.receiver.Sound ∧
  k.lowRun ≤ Config.breakSamples

/-- R151: tags in the request queue and the replay table are all distinct. -/
def Link.TagsDistinct (k : Link) : Prop := (k.requests.map Request.tag ++ k.replay.map ReplayEntry.tag).Nodup

/-- R154: the sequence numbers of the queue are consecutive and end just below the counter. -/
def Link.Consecutive (k : Link) : Prop :=
  ∀ (n : Nat) (h : n < k.reports.length), (k.reports[n]).seq = k.nextSeq - BitVec.ofNat 16 (k.reports.length - n)

/-! ### Channel records (R34, R42, R52, R74, R90, R97, R99, R100) -/

/-- What holds of both roles: rearm only with TRIGGER (R41), a halt reason exactly in HALTED (R34), coalesced counts 1–255
(R125), and actions valid for the role (R119). -/
def Channel.CommonSound (c : Channel) : Prop :=
  (c.rearm = true → c.startCondition = .trigger) ∧
  (c.activity = .halted ↔ c.haltReason ≠ .none) ∧
  ∀ (l : LineId) (d : Delivery), c.deliveries[l] = some d →
    1 ≤ d.count ∧ d.count ≤ Config.coalescedMax ∧ c.role.accepts d.action = true

/-- R42, R52, R57, R59, R63, R74: an output channel's play fields; a RUNNING channel stands inside a segment of a DEFINED row, with
repetitions left. -/
def Channel.OutputSound (c : Channel) (t : PatternStore) : Prop :=
  match c.role with
  | .input _ => True
  | .output o =>
    (o.staged ≠ none → o.active ≠ none) ∧
    (c.inPlay = true → o.active ≠ none) ∧
    (c.activity = .waiting → o.segIndex = 0 ∧ o.reps = 0) ∧
    o.reps ≤ Config.countMax ∧
    (o.doneLevel ≠ none ↔ c.activity = .done) ∧
    (o.ticksLeft ≠ none ↔ c.activity = .running) ∧
    (∀ n, o.ticksLeft = some n → ∃ p q g, o.active = some p ∧ (t.rows[p]).pattern = some q ∧
      q.segments[o.segIndex]? = some g ∧ 1 ≤ n ∧ n ≤ g.duration ∧ (q.repeatCount = 0 ∨ o.reps < q.repeatCount))

/-- R90, R94, R97, R99, R100: an input channel's progress fields. -/
def Channel.InputSound (c : Channel) : Prop :=
  match c.role with
  | .output _ => True
  | .input i =>
    i.captures ≤ Config.countMax ∧
    (c.inPlay = true → i.limit ≠ 0 → i.captures < i.limit) ∧
    (c.activity = .waiting → i.accepted = none) ∧
    (c.activity = .running → i.accepted ≠ none) ∧
    (i.timeoutLeft ≠ none ↔ c.activity = .running ∧ i.timeoutWindow ≠ 0) ∧
    (∀ n, i.timeoutLeft = some n → 1 ≤ n ∧ n ≤ i.timeoutWindow) ∧
    (∀ q, i.qual = some q → c.activity = .running ∧ q.count < i.window ∧ i.accepted ≠ some q.candidate)

/-- Every bound channel's record is sound in what both roles share. -/
def State.CommonSound (s : State) : Prop := ∀ (ch : ChannelId) (c : Channel), s.channels[ch] = some c → c.CommonSound

/-- The pattern store and the play of every output channel (R2, R14, R42, R52). -/
def State.PlaySound (s : State) : Prop :=
  s.store.Sound ∧ s.UsersCounted ∧
  ∀ (ch : ChannelId) (c : Channel), s.channels[ch] = some c → c.OutputSound s.store

/-- Every input channel's progress. -/
def State.CaptureSound (s : State) : Prop := ∀ (ch : ChannelId) (c : Channel), s.channels[ch] = some c → c.InputSound

end Sys2Proof.Machine
end

