-- ==== Sys2Proof/Certificates/Slice0/Obligations.lean ====
section
/-! DEFINITION. The statements for the provers. In each of them `r` is the request as it stands in the frame, `t` the state in
which its owner executes it (it has arrived and left the queue), and `.answered r status results` adds the executor's reply. -/

open Sys2Proof Sys2Proof.Machine

/-! ### The queue of commands, arrival and execution -/

/-- A step takes the command at the front of the queue and runs it with the queue's rest. -/
def Obligations.StepRunsFrontCommand : Prop :=
  ∀ (c : Instr) (rest : List Instr) (s : State),
    step { s with pending := c :: rest } = exec c { s with pending := rest }

/-- Every command completes, in every state, and leaves the queue and the outside world's script as they are. -/
def Obligations.EveryCommandCompletes : Prop :=
  ∀ (c : Instr) (s : State), ∃ t, exec c s = .next t ∧
    t.pending = s.pending ∧ t.script = s.script ∧ t.unscripted = s.unscripted

/-- When the executor takes the request of a request command, and the state in which its owner executes it; and what a command whose request
is not taken does: nothing in cold reset, nothing for a request that waits already, and else its arrival. -/
def Obligations.RequestIsTakenOrArrives : Prop :=
  (∀ (r : Request) (s : State),
     (s.takes r = true ↔
       s.inColdReset = false ∧ s.link.replies.length < 8 ∧
       (s.link.requests.head? = some r ∨
         (s.link.requests = [] ∧ ∀ e, s.link.replay.find? (fun e => decide (e.tag = r.tag)) = some e → e.crc ≠ r.crc))) ∧
     (s.takes r = true →
       s.taken r = { s with link := { s.link with
         requests := s.link.requests.tail
         replay := if s.link.requests.head? = some r then s.link.replay
                   else s.link.replay.filter fun e => decide (e.tag ≠ r.tag) } })) ∧
  (∀ (r : Request) (s : State), r.kind.toNat < 0x80 → s.takes r = false →
     exec r.command s = .next
       (if s.inColdReset = true ∨ s.link.requests.head? = some r then s else { s with link := s.link.arrive r }))

/-- The arrival checks of a valid request, on a link unit in which no tag stands twice. -/
def Obligations.ArrivalChecks : Prop :=
  ∀ (k : Link) (r : Request), k.TagsDistinct →
    (∀ e ∈ k.replay, e.tag = r.tag → e.crc = r.crc →
      k.arrive r = if k.replies.length < 8 then { k with replies := k.replies ++ [e.reply] } else k) ∧
    ((∀ e ∈ k.replay, e.tag = r.tag → e.crc ≠ r.crc) →
      let j : Link := { k with replay := k.replay.filter fun e => decide (e.tag ≠ r.tag) }
      (r.tag ∈ k.requests.map Request.tag → k.arrive r = j) ∧
      (r.tag ∉ k.requests.map Request.tag → 4 ≤ k.requests.length →
        k.arrive r =
          if k.replies.length < 8 then
            { j with replies := k.replies ++ [{ kind := replyKind r.kind, tag := r.tag, body := [0x0D] }] }
          else j) ∧
      (r.tag ∉ k.requests.map Request.tag → k.requests.length < 4 →
        k.arrive r = { j with requests := k.requests ++ [r] }))

/-- Every request that the executor takes is executed and answered: one reply frame joins the reply queue and the replay table, which a
DEVICE_RESET alone has emptied, and a refusal carries its status alone and changes nothing else. -/
def Obligations.EveryTakenRequestIsAnswered : Prop :=
  ∀ (r : Request) (s : State), r.kind.toNat < 0x80 → s.takes r = true →
    ∃ (u : State) (status : Status) (results : List Byte),
      let f : Frame := { kind := if assigned r.kind then r.kind + 0x80 else 0x80, tag := r.tag,
                         body := statusByte status :: results }
      exec r.command s = .next { u with link := { u.link with
        replies := s.link.replies ++ [f]
        replay := (if u.link.replay.length < 8 then u.link.replay else u.link.replay.tail) ++
          [{ tag := r.tag, crc := crcOf (byte1 (r.body.length + 2) :: r.kind :: r.tag :: r.body), reply := f }] } } ∧
      u.link.replay = (if r.kind = 0x04 ∧ status = .ok then [] else (s.taken r).link.replay) ∧
      (status ≠ .ok → u = s.taken r ∧ results = [])

/-- A DEFINE_PATTERN or START whose body has no right length is refused BAD_LENGTH; one of the right length with a field that names
nothing is refused BAD_FIELD, and a START on a FREE channel BAD_STATE. -/
def Obligations.MalformedDefineAndStartAreRefused : Prop :=
  (∀ (r : Request) (s : State), s.takes r = true →
     let refused := exec r.command s = .next ((s.taken r).answered r .badLength [])
     (r.kind = 0x10 →
       (r.body.length < 5 ∨ ∃ m, r.body[4]? = some m ∧ r.body.length ≠ 5 + 3 * (m.toNat + 1)) → refused) ∧
     (r.kind = 0x2A →
       ((r.body.length ≠ 3 ∧ r.body.length ≠ 9) ∨ (r.body.length = 3 ∧ r.body[1]? = some 1) ∨
         (r.body.length = 9 ∧ (r.body[1]? = some 0 ∨ r.body[1]? = some 2))) → refused)) ∧
  (∀ (tag id r1 r0 rest count : Byte) (segs : List Byte) (s : State),
     let body := id :: r1 :: r0 :: rest :: count :: segs
     let r : Request := ⟨0x10, tag, body⟩
     s.takes r = true → segs.length = 3 * (count.toNat + 1) →
       (32 ≤ id.toNat ∨ 64 ≤ count.toNat ∨ 4 ≤ rest.toNat ∨
         ∃ (j : Nat) (b : Byte), segs[3 * j + 2]? = some b ∧ (b &&& 0x7C ≠ 0 ∨ b &&& 0x03 = 0x03)) →
       exec (.definePattern tag body) s = .next ((s.taken r).answered r .badField [])) ∧
  (∀ (tag chb kb rb : Byte) (time : List Byte) (s : State),
     let r : Request := ⟨0x2A, tag, [chb, kb, rb] ++ time⟩
     let t := s.taken r
     let x := exec (.start tag ([chb, kb, rb] ++ time)) s
     s.takes r = true → (kb.toNat = 1 ∧ time.length = 6 ∨ (kb.toNat = 0 ∨ kb.toNat = 2) ∧ time.length = 0 ∨
         3 ≤ kb.toNat ∧ (time.length = 0 ∨ time.length = 6)) →
       (16 ≤ chb.toNat ∨ 3 ≤ kb.toNat ∨ 2 ≤ rb.toNat ∨ (rb.toNat = 1 ∧ kb.toNat ≠ 2) →
         x = .next (t.answered r .badField [])) ∧
       ∀ ch : ChannelId, chb.toNat = ch.val → kb.toNat < 3 → rb.toNat < 2 → (rb.toNat = 1 → kb.toNat = 2) →
         s.channels[ch] = none → x = .next (t.answered r .badState []))

/-! ### Requests of the link unit, the timebase unit and the hold unit -/

/-- QUERY_DEVICE and READ_TIME change nothing and tell what they find. -/
def Obligations.DeviceQueriesTell : Prop :=
  ∀ (tag : Byte) (s : State),
    (s.RefusesLength 0x01 tag (.queryDevice tag) 0 ∧
     let r : Request := ⟨0x01, tag, []⟩
     let t := s.taken r
     s.takes r = true → exec (.queryDevice tag []) s = .next (t.answered r .ok
       ([0x5B, 0x02] ++ timeBytes s.time ++ [pinHoldByte s.hold.pinHold, flagByte s.hold.request] ++
        bytes2 s.store.free ++ [byte1 s.store.defined, byte1 s.link.credit, byte1 s.link.reports.length] ++
        bytes2 s.link.lost ++ [byte1 s.link.requests.tail.length]))) ∧
    (s.RefusesLength 0x02 tag (.readTime tag) 0 ∧
     let r : Request := ⟨0x02, tag, []⟩
     let t := s.taken r
     s.takes r = true → exec (.readTime tag []) s = .next (t.answered r .ok
       (timeBytes s.time ++ bytes2 (s.timebases[0].divisor - 1) ++ bytes2 (s.timebases[1].divisor - 1) ++
        bytes2 (s.timebases[2].divisor - 1) ++ bytes2 (s.timebases[3].divisor - 1))))

/-- GRANT raises the credit balance by n, to 64 at most; n of 0 or above 64 is refused. -/
def Obligations.GrantRaisesCredit : Prop :=
  ∀ (tag n : Byte) (s : State),
    s.RefusesLength 0x03 tag (.grant tag) 1 ∧
    let r : Request := ⟨0x03, tag, [n]⟩
    let t := s.taken r
    s.takes r = true →
      (n.toNat = 0 ∨ 64 < n.toNat → exec (.grant tag [n]) s = .next (t.answered r .badField [])) ∧
      (1 ≤ n.toNat → n.toNat ≤ 64 →
        exec (.grant tag [n]) s = .next
          ({ t with link := { t.link with credit := min (s.link.credit + n.toNat) 64 } }.answered r .ok
            [byte1 (min (s.link.credit + n.toNat) 64)]))

/-- DEVICE_RESET, block by block: what the warm reset keeps is what it does not name. -/
def Obligations.DeviceResetResetsAllButFrozen : Prop :=
  ∀ (tag : Byte) (s : State),
    s.RefusesLength 0x04 tag (.deviceReset tag) 0 ∧
    let r : Request := ⟨0x04, tag, []⟩
    let t := s.taken r
    s.takes r = true → ∃ u : State,
      exec (.deviceReset tag []) s = .next (u.answered r .ok
        [byte1 s.link.requests.tail.length, byte1 (channelIds.filter s.isFrozen).length]) ∧
      u = { s with timebases := u.timebases, store := u.store, channels := u.channels, pinTable := u.pinTable,
                   fabric := u.fabric, hold := { s.hold with request := false }, link := u.link } ∧
      u.link = { t.link with requests := [], reports := [], nextSeq := 0, lost := 0, credit := 0, gapDue := false,
                             replay := [] } ∧
      u.store = PatternStore.empty ∧
      (∀ ch : ChannelId, s.isFrozen ch = false → u.channels[ch] = none) ∧
      (∀ (ch : ChannelId) (c : Channel), s.channels[ch] = some c → c.frozen = true →
        u.channels[ch] = some { c with
          activity := .idle, startCondition := .next s.time, rearm := false, haltReason := .none,
          deliveries := Vector.replicate 8 none
          role := match c.role with
            | .output o => .output { idleLevel := o.idleLevel, active := none, staged := none, segIndex := 0,
                                     ticksLeft := none, reps := 0, doneLevel := none }
            | .input i => .input { i with accepted := none, qual := none, captures := 0, lastCapture := none,
                                          timeoutLeft := none } }) ∧
      (∀ (p : PinId) (ch : ChannelId), u.pinTable[p] = some ch ↔ s.pinTable[p] = some ch ∧ s.isFrozen ch = true) ∧
      (∀ (l : LineId) (e : Emitter),
        u.fabric.emitters[l] = some e ↔ s.fabric.emitters[l] = some e ∧ s.isFrozen e.source = true) ∧
      (∀ (l : LineId) (ch : ChannelId) (a : Action),
        u.fabric.listeners[l][ch] = some a ↔ s.fabric.listeners[l][ch] = some a ∧ s.isFrozen ch = true) ∧
      (∀ k : TimebaseId,
        ((∃ (ch : ChannelId) (c : Channel), s.channels[ch] = some c ∧ c.timebase = k ∧ c.frozen = true) → u.timebases[k] = s.timebases[k]) ∧
        ((∀ (ch : ChannelId) (c : Channel), s.channels[ch] = some c → c.timebase = k → c.frozen = false) →
          (u.timebases[k]).divisor = (#v[1, 100, 1000, 10000] : Vector Nat 4)[k] ∧ (u.timebases[k]).phase = 0 ∧
          (u.timebases[k]).tick = if (s.timebases[k]).tick = .due then .noTick else (s.timebases[k]).tick))

/-- SET_TIMEBASE gives a timebase its divisor and restarts its phase counter, unless a channel bound to it is frozen or in play. The
tick mark, with the clause that says what becomes of it, is the model's own choice (notes/assumptions/11.md). -/
def Obligations.SetTimebaseRestarts : Prop :=
  ∀ (tag tb d1 d0 : Byte) (s : State),
    s.RefusesLength 0x05 tag (.setTimebase tag) 3 ∧
    let r : Request := ⟨0x05, tag, [tb, d1, d0]⟩
    let t := s.taken r
    let x := exec (.setTimebase tag [tb, d1, d0]) s
    s.takes r = true →
      (4 ≤ tb.toNat → x = .next (t.answered r .badField [])) ∧
      ∀ k : TimebaseId, tb.toNat = k.val →
        ((∃ (ch : ChannelId) (c : Channel), s.channels[ch] = some c ∧ c.timebase = k ∧ c.frozen = true) →
          x = .next (t.answered r .frozen [])) ∧
        ((∀ (ch : ChannelId) (c : Channel), s.channels[ch] = some c → c.timebase = k → c.frozen = false) →
          (∃ (ch : ChannelId) (c : Channel), s.channels[ch] = some c ∧ c.timebase = k ∧ c.inPlay = true) →
          x = .next (t.answered r .badState [])) ∧
        ((∀ (ch : ChannelId) (c : Channel), s.channels[ch] = some c → c.timebase = k → c.frozen = false ∧ c.inPlay = false) →
          let b : Timebase :=
            { divisor := d1.toNat * 256 + d0.toNat + 1, phase := 0
              tick := if (s.timebases[k]).tick = .due then .noTick else (s.timebases[k]).tick }
          x = .next ({ t with timebases := t.timebases.set k b }.answered r .ok ([tb, d1, d0] ++ timeBytes s.time)))

/-- HOLD, RELEASE and the HOLD_N filter's change, in each combination of the pin hold and the flag: the entry into hold with its halts and
reports, and the exit from it with its report. -/
def Obligations.HoldBeginsAndEnds : Prop :=
  (∀ (tag : Byte) (s : State),
     (s.RefusesLength 0x06 tag (.hold tag) 0 ∧
      let r : Request := ⟨0x06, tag, []⟩
      let t := s.taken r
      let u : State := { t with hold := { s.hold with request := true } }
      s.takes r = true →
        (s.hold.request = true ∨ s.hold.pinHold = .asserted →
          exec (.hold tag []) s = .next (u.answered r .ok [1, pinHoldByte s.hold.pinHold])) ∧
        (s.hold.request = false → s.hold.pinHold = .deasserted →
          exec (.hold tag []) s = .next
            (({ u with channels := s.heldChannels }.reportAll (s.holdReports .request)).answered r .ok [0, 0]))) ∧
     (s.RefusesLength 0x07 tag (.release tag) 0 ∧
      let r : Request := ⟨0x07, tag, []⟩
      let t := s.taken r
      let u : State := { t with hold := { s.hold with request := false } }
      s.takes r = true →
        (s.hold.request = false ∨ s.hold.pinHold = .asserted →
          exec (.release tag []) s = .next (u.answered r .ok [flagByte s.hold.request, pinHoldByte s.hold.pinHold])) ∧
        (s.hold.request = true → s.hold.pinHold = .deasserted →
          exec (.release tag []) s = .next ((u.report (.hold false .request s.time)).answered r .ok [1, 0])))) ∧
  (∀ s : State, s.inColdReset = false →
     let a : State := { s with hold := { s.hold with pinHold := .asserted, runCount := 0 } }
     let d : State := { s with hold := { s.hold with pinHold := .deasserted, runCount := 0 } }
     (s.hold.pinHold = .deasserted → s.hold.request = false →
       exec .pinHoldChange s = .next ({ a with channels := s.heldChannels }.reportAll (s.holdReports .pin))) ∧
     (s.hold.pinHold = .deasserted → s.hold.request = true → exec .pinHoldChange s = .next a) ∧
     (s.hold.pinHold = .asserted → s.hold.request = true → exec .pinHoldChange s = .next d) ∧
     (s.hold.pinHold = .asserted → s.hold.request = false →
       exec .pinHoldChange s = .next (d.report (.hold false .pin s.time))))

/-! ### Requests of the pattern store -/

/-- DEFINE_PATTERN with a pattern written as its body defines or replaces the row with exactly that pattern, or is refused. -/
def Obligations.DefinePatternWritesRow : Prop :=
  ∀ (tag : Byte) (i : PatternId) (p : Pattern) (s : State), p.Sound →
    let body := [idByte i] ++ bytes2 p.repeatCount ++ [restByte p.rest, byte1 (p.segments.length - 1)] ++
      p.segments.flatMap segmentBytes
    let r : Request := ⟨0x10, tag, body⟩
    let t := s.taken r
    let x := exec (.definePattern tag body) s
    let old := match (s.store.rows[i]).pattern with
      | none => 0
      | some q => q.segments.length
    s.takes r = true →
      ((s.store.rows[i]).pattern ≠ none → 0 < (s.store.rows[i]).users → x = .next (t.answered r .inUse [])) ∧
      ((s.store.rows[i]).pattern = none ∨ (s.store.rows[i]).users = 0 →
        (s.store.free + old < p.segments.length → x = .next (t.answered r .noSpace [])) ∧
        (p.segments.length ≤ s.store.free + old →
          let row : PatternRow := { pattern := some p, users := 0 }
          let store : PatternStore :=
            { rows := s.store.rows.set i row
              free := s.store.free + old - p.segments.length
              defined := if (s.store.rows[i]).pattern = none then s.store.defined + 1 else s.store.defined }
          x = .next ({ t with store := store }.answered r .ok (bytes2 store.free))))

/-- DELETE_PATTERN empties a row that no channel uses; QUERY_PATTERN tells a row in either state and changes nothing. -/
def Obligations.PatternRowsAreDeletedAndTold : Prop :=
  (∀ (tag id : Byte) (s : State),
     s.RefusesLength 0x11 tag (.deletePattern tag) 1 ∧
     let r : Request := ⟨0x11, tag, [id]⟩
     let t := s.taken r
     let x := exec (.deletePattern tag [id]) s
     s.takes r = true →
       (32 ≤ id.toNat → x = .next (t.answered r .badField [])) ∧
       ∀ i : PatternId, id.toNat = i.val →
         ((s.store.rows[i]).pattern = none → x = .next (t.answered r .notFound [])) ∧
         ∀ q, (s.store.rows[i]).pattern = some q →
           (0 < (s.store.rows[i]).users → x = .next (t.answered r .inUse [])) ∧
           ((s.store.rows[i]).users = 0 →
             let row : PatternRow := { pattern := none, users := 0 }
             let store : PatternStore :=
               { rows := s.store.rows.set i row, free := s.store.free + q.segments.length, defined := s.store.defined - 1 }
             x = .next ({ t with store := store }.answered r .ok (bytes2 store.free)))) ∧
  (∀ (tag id : Byte) (s : State),
     s.RefusesLength 0x12 tag (.queryPattern tag) 1 ∧
     let r : Request := ⟨0x12, tag, [id]⟩
     let t := s.taken r
     let x := exec (.queryPattern tag [id]) s
     s.takes r = true →
       (32 ≤ id.toNat → x = .next (t.answered r .badField [])) ∧
       ∀ i : PatternId, id.toNat = i.val →
         ((s.store.rows[i]).pattern = none → x = .next (t.answered r .ok [id, 0])) ∧
         ∀ q, (s.store.rows[i]).pattern = some q →
           x = .next (t.answered r .ok ([id, 1] ++ bytes2 q.repeatCount ++ [restByte q.rest] ++
             [byte1 (s.store.rows[i]).users, byte1 (q.segments.length - 1)] ++
             q.segments.flatMap fun g =>
               bytes2 (g.duration - 1) ++ [(if g.mark then 0x80 else 0x00) ||| levelByte g.level])))

/-! ### Requests of the channel array -/

/-- BIND gives a FREE channel its pin, timebase and role, with the values a bound channel starts from. -/
def Obligations.BindMakesRecord : Prop :=
  ∀ (tag chb rb pb tb : Byte) (s : State),
    s.RefusesLength 0x20 tag (.bind tag) 4 ∧
    let r : Request := ⟨0x20, tag, [chb, rb, pb, tb]⟩
    let t := s.taken r
    let x := exec (.bind tag [chb, rb, pb, tb]) s
    s.takes r = true →
      (16 ≤ chb.toNat ∨ 2 ≤ rb.toNat ∨ 20 ≤ pb.toNat ∨ 4 ≤ tb.toNat → x = .next (t.answered r .badField [])) ∧
      ∀ (ch : ChannelId) (p : PinId) (k : TimebaseId),
        chb.toNat = ch.val → rb.toNat < 2 → pb.toNat = p.val → tb.toNat = k.val →
        (∀ c, s.channels[ch] = some c →
          x = .next (t.answered r (if c.frozen then .frozen else .badState) [])) ∧
        (s.channels[ch] = none → s.pinTable[p] ≠ none → x = .next (t.answered r .conflict [])) ∧
        (s.channels[ch] = none → s.pinTable[p] = none →
          let role : Role :=
            if rb = 0 then
              .output { idleLevel := .low, active := none, staged := none, segIndex := 0, ticksLeft := none, reps := 0,
                        doneLevel := none }
            else
              .input { edgeSelect := .both, window := 0, timeoutWindow := 0, timeoutAction := .report, mode := .plain,
                       limit := 0, accepted := none, qual := none, captures := 0, lastCapture := none,
                       timeoutLeft := none }
          let c : Channel :=
            { activity := .idle, pin := p, timebase := k, frozen := false, startCondition := .next s.time, rearm := false,
              haltReason := .none, deliveries := Vector.replicate 8 none, role := role }
          x = .next ({ t with pinTable := t.pinTable.set p (some ch), channels := t.channels.set ch (some c) }.answered
            r .ok []))

/-- UNBIND makes an unfrozen channel at rest FREE and counts the fabric entries removed. -/
def Obligations.UnbindFreesChannel : Prop :=
  ∀ (tag chb : Byte) (s : State),
    s.RefusesLength 0x21 tag (.unbind tag) 1 ∧
    let r : Request := ⟨0x21, tag, [chb]⟩
    let t := s.taken r
    let x := exec (.unbind tag [chb]) s
    s.takes r = true →
      (16 ≤ chb.toNat → x = .next (t.answered r .badField [])) ∧
      ∀ ch : ChannelId, chb.toNat = ch.val →
        (s.channels[ch] = none → x = .next (t.answered r .badState [])) ∧
        ∀ c, s.channels[ch] = some c →
          (c.frozen = true → x = .next (t.answered r .frozen [])) ∧
          (c.frozen = false → c.inPlay = true → x = .next (t.answered r .badState [])) ∧
          (c.frozen = false → c.inPlay = false → ∃ u, t.Freed u ch c ∧
            x = .next (u.answered r .ok
              [byte1 (lines.filter fun l => (s.fabric.emitters[l]).any fun e => decide (e.source = ch)).length,
               byte1 (lines.filter fun l => (s.fabric.listeners[l][ch]).isSome).length]))

/-- CLEAR_CHANNEL frees an unfrozen channel in any bound state, and brings a frozen one back to a clean IDLE. -/
def Obligations.ClearChannelDropsPlay : Prop :=
  ∀ (tag chb : Byte) (s : State),
    s.RefusesLength 0x25 tag (.clearChannel tag) 1 ∧
    let r : Request := ⟨0x25, tag, [chb]⟩
    let t := s.taken r
    let x := exec (.clearChannel tag [chb]) s
    s.takes r = true →
      (16 ≤ chb.toNat → x = .next (t.answered r .badField [])) ∧
      ∀ ch : ChannelId, chb.toNat = ch.val →
        (s.channels[ch] = none → x = .next (t.answered r .badState [])) ∧
        ∀ c, s.channels[ch] = some c →
          (c.frozen = false → ∃ u, t.Freed u ch c ∧ x = .next (u.answered r .ok [0])) ∧
          (c.frozen = true →
            let role : Role := match c.role with
              | .output o => .output { idleLevel := o.idleLevel, active := none, staged := none, segIndex := 0,
                                       ticksLeft := none, reps := 0, doneLevel := none }
              | .input i => .input { i with accepted := none, qual := none, captures := 0, lastCapture := none,
                                            timeoutLeft := none }
            let d : Channel :=
              { activity := .idle, pin := c.pin, timebase := c.timebase, frozen := true, startCondition := .next s.time,
                rearm := false, haltReason := .none, deliveries := Vector.replicate 8 none, role := role }
            ∃ store, t.store.Recounted store (fun _ => 0) c.role.refs ∧
              x = .next ({ t with store := store, channels := t.channels.set ch (some d) }.answered r .ok [1]))

/-- FREEZE sets the frozen flag of a bound channel in any state. -/
def Obligations.FreezeSetsFlag : Prop :=
  ∀ (tag chb : Byte) (s : State),
    s.RefusesLength 0x24 tag (.freeze tag) 1 ∧
    let r : Request := ⟨0x24, tag, [chb]⟩
    let t := s.taken r
    let x := exec (.freeze tag [chb]) s
    s.takes r = true →
      (16 ≤ chb.toNat → x = .next (t.answered r .badField [])) ∧
      ∀ ch : ChannelId, chb.toNat = ch.val →
        (s.channels[ch] = none → x = .next (t.answered r .badState [])) ∧
        ∀ c, s.channels[ch] = some c →
          x = .next ({ t with channels := t.channels.set ch (some { c with frozen := true }) }.answered r .ok [])

/-- QUERY_CHANNEL tells every field of the record, in three parts, and changes nothing. -/
def Obligations.QueryChannelTellsRecord : Prop :=
  ∀ (tag chb : Byte) (s : State),
    s.RefusesLength 0x26 tag (.queryChannel tag) 1 ∧
    let r : Request := ⟨0x26, tag, [chb]⟩
    let t := s.taken r
    let x := exec (.queryChannel tag [chb]) s
    s.takes r = true →
      (16 ≤ chb.toNat → x = .next (t.answered r .badField [])) ∧
      ∀ ch : ChannelId, chb.toNat = ch.val →
        (s.channels[ch] = none → x = .next (t.answered r .ok [chb, 0])) ∧
        ∀ c, s.channels[ch] = some c →
          let deliveries := lines.filterMap fun l => (c.deliveries[l]).map fun d => (l, d)
          let common := [chb, activityByte c.activity] ++
            (match c.role with
              | .output _ => [0]
              | .input _ => [1]) ++
            [idByte c.pin, idByte c.timebase, flagByte c.frozen, conditionByte c.startCondition, flagByte c.rearm,
              haltByte c.haltReason] ++
            (match c.startCondition with
              | .next time => timeBytes time
              | .at time => timeBytes time
              | .trigger => [])
          let role := match c.role with
            | .output o =>
              [levelByte o.idleLevel] ++
              (match o.active with
                | none => [0xFF]
                | some p => [idByte p]) ++
              (match o.staged with
                | none => [0xFF, 0xFF]
                | some g => [idByte g.pattern, swapPointByte g.point]) ++
              [byte1 o.segIndex] ++
              (match o.ticksLeft with
                | none => [0, 0, 0]
                | some n => [1] ++ bytes2 (n - 1)) ++
              bytes2 o.reps ++
              (match o.doneLevel with
                | none => [0xFF]
                | some l => [levelByte l])
            | .input i =>
              [edgeByte i.edgeSelect] ++ bytes2 i.window ++ bytes2 i.timeoutWindow ++
              [timeoutActionByte i.timeoutAction, modeByte i.mode] ++ bytes2 i.limit ++
              (match i.accepted with
                | none => [0xFF]
                | some a => [sampleByte a]) ++
              (match i.qual with
                | none => [0, 0xFF, 0, 0, 0, 0, 0, 0, 0, 0]
                | some q => [1, sampleByte q.candidate] ++ timeBytes q.start ++ bytes2 q.count) ++
              bytes2 i.captures ++
              (match i.lastCapture with
                | none => [0, 0, 0, 0, 0, 0, 0]
                | some time => [1] ++ timeBytes time) ++
              (match i.timeoutLeft with
                | none => [0, 0, 0]
                | some n => [1] ++ bytes2 n)
          x = .next (t.answered r .ok (common ++ [byte1 deliveries.length] ++
            deliveries.flatMap (fun ld =>
              [idByte ld.1, actionByte ld.2.action] ++ timeBytes ld.2.firstTime ++ [byte1 ld.2.count]) ++ role))

/-- CONFIGURE_OUTPUT sets the idle level of an output channel at rest and tells the pin's level; CONFIGURE_INPUT replaces the six
configuration fields of an input channel at rest and tells them. -/
def Obligations.ConfigurationIsSet : Prop :=
  (∀ (tag chb lb : Byte) (s : State),
     s.RefusesLength 0x22 tag (.configureOutput tag) 2 ∧
     let r : Request := ⟨0x22, tag, [chb, lb]⟩
     let t := s.taken r
     let x := exec (.configureOutput tag [chb, lb]) s
     s.takes r = true →
       (16 ≤ chb.toNat ∨ 3 ≤ lb.toNat → x = .next (t.answered r .badField [])) ∧
       ∀ (ch : ChannelId) (l : Level), chb.toNat = ch.val → lb = levelByte l →
         (s.channels[ch] = none → x = .next (t.answered r .badState [])) ∧
         ∀ c, s.channels[ch] = some c →
           (∀ i, c.role = .input i → x = .next (t.answered r .badRole [])) ∧
           ∀ o, c.role = .output o →
             (c.frozen = true → x = .next (t.answered r .frozen [])) ∧
             (c.frozen = false → c.inPlay = true → x = .next (t.answered r .badState [])) ∧
             (c.frozen = false → c.inPlay = false →
               let d : Channel := { c with role := .output { o with idleLevel := l } }
               let u : State := { t with channels := t.channels.set ch (some d) }
               (c.activity ≠ .done → x = .next (u.answered r .ok [lb, lb])) ∧
               (∀ e, c.activity = .done → o.doneLevel = some e → x = .next (u.answered r .ok [lb, levelByte e])))) ∧
  (∀ (tag chb eb q1 q0 w1 w0 ab mb l1 l0 : Byte) (s : State),
     s.RefusesLength 0x23 tag (.configureInput tag) 10 ∧
     let body := [chb, eb, q1, q0, w1, w0, ab, mb, l1, l0]
     let r : Request := ⟨0x23, tag, body⟩
     let t := s.taken r
     let x := exec (.configureInput tag body) s
     s.takes r = true →
       (16 ≤ chb.toNat ∨ 3 ≤ eb.toNat ∨ 2 ≤ ab.toNat ∨ 2 ≤ mb.toNat → x = .next (t.answered r .badField [])) ∧
       ∀ (ch : ChannelId) (e : EdgeSelect) (a : TimeoutAction) (m : CaptureMode),
         chb.toNat = ch.val → eb = edgeByte e → ab = timeoutActionByte a → mb = modeByte m →
         (s.channels[ch] = none → x = .next (t.answered r .badState [])) ∧
         ∀ c, s.channels[ch] = some c →
           (∀ o, c.role = .output o → x = .next (t.answered r .badRole [])) ∧
           ∀ i, c.role = .input i →
             (c.frozen = true → x = .next (t.answered r .frozen [])) ∧
             (c.frozen = false → c.inPlay = true → x = .next (t.answered r .badState [])) ∧
             (c.frozen = false → c.inPlay = false →
               let j : InputRole := { i with edgeSelect := e, window := q1.toNat * 256 + q0.toNat,
                                             timeoutWindow := w1.toNat * 256 + w0.toNat, timeoutAction := a, mode := m,
                                             limit := l1.toNat * 256 + l0.toNat }
               x = .next ({ t with channels := t.channels.set ch (some { c with role := .input j }) }.answered r .ok
                 [eb, q1, q0, w1, w0, ab, mb, l1, l0])))

/-- ASSIGN makes the pattern active outside RUNNING, and stages it in RUNNING, in place of any staged before. -/
def Obligations.AssignActivatesOrStages : Prop :=
  ∀ (tag chb pb wb : Byte) (s : State),
    s.RefusesLength 0x28 tag (.assign tag) 3 ∧
    let r : Request := ⟨0x28, tag, [chb, pb, wb]⟩
    let t := s.taken r
    let x := exec (.assign tag [chb, pb, wb]) s
    s.takes r = true →
      (16 ≤ chb.toNat ∨ 32 ≤ pb.toNat ∨ 2 ≤ wb.toNat → x = .next (t.answered r .badField [])) ∧
      ∀ (ch : ChannelId) (p : PatternId) (w : SwapPoint), chb.toNat = ch.val → pb.toNat = p.val → wb = swapPointByte w →
        (s.channels[ch] = none → x = .next (t.answered r .badState [])) ∧
        ∀ c, s.channels[ch] = some c →
          (∀ i, c.role = .input i → x = .next (t.answered r .badRole [])) ∧
          ∀ o, c.role = .output o →
            ((s.store.rows[p]).pattern = none → x = .next (t.answered r .notFound [])) ∧
            ((s.store.rows[p]).pattern ≠ none →
              (c.activity ≠ .running → ∃ store, t.store.Recounted store (fieldRefs (some p)) c.role.refs ∧
                let d : Channel := { c with role := .output { o with active := some p, staged := none } }
                x = .next ({ t with store := store, channels := t.channels.set ch (some d) }.answered r .ok
                  [0, pb, 0xFF])) ∧
              (c.activity = .running → ∃ store,
                t.store.Recounted store (fieldRefs (some p)) (fieldRefs (o.staged.map Staged.pattern)) ∧
                let d : Channel := { c with role := .output { o with staged := some { pattern := p, point := w } } }
                x = .next ({ t with store := store, channels := t.channels.set ch (some d) }.answered r .ok
                  [if o.staged = none then 1 else 2, (match o.active with
                    | none => 0xFF
                    | some a => idByte a), pb])))

/-- UNSTAGE gives up the staged pattern, in any bound state. -/
def Obligations.UnstageReleasesStaged : Prop :=
  ∀ (tag chb : Byte) (s : State),
    s.RefusesLength 0x29 tag (.unstage tag) 1 ∧
    let r : Request := ⟨0x29, tag, [chb]⟩
    let t := s.taken r
    let x := exec (.unstage tag [chb]) s
    s.takes r = true →
      (16 ≤ chb.toNat → x = .next (t.answered r .badField [])) ∧
      ∀ ch : ChannelId, chb.toNat = ch.val →
        (s.channels[ch] = none → x = .next (t.answered r .badState [])) ∧
        ∀ c, s.channels[ch] = some c →
          (∀ i, c.role = .input i → x = .next (t.answered r .badRole [])) ∧
          ∀ o, c.role = .output o →
            (o.staged = none → x = .next (t.answered r .notFound [])) ∧
            ∀ g, o.staged = some g → ∃ store, t.store.Recounted store (fun _ => 0) (fieldRefs (some g.pattern)) ∧
              let d : Channel := { c with role := .output { o with staged := none } }
              x = .next ({ t with store := store, channels := t.channels.set ch (some d) }.answered r .ok
                [idByte g.pattern])

/-- START on an output channel: its checks in order, and the entry into WAITING with the promotion of a staged pattern. -/
def Obligations.StartOnOutputChannel : Prop :=
  ∀ (tag : Byte) (ch : ChannelId) (k : StartCondition) (rearm : Bool) (s : State) (c : Channel) (o : OutputRole),
    let r : Request := ⟨0x2A, tag, startBody ch k rearm⟩
    let t := s.taken r
    let x := exec (.start tag (startBody ch k rearm)) s
    s.takes r = true → (rearm = true → k = .trigger) → (∀ time, k = .next time → time = s.time) →
    s.channels[ch] = some c → c.role = .output o →
      let late := ∃ time, k = .at time ∧ ¬(1 ≤ (time - s.time).toNat ∧ (time - s.time).toNat < 2 ^ 47)
      let d (p : Option PatternId) : Channel :=
        { c with activity := .waiting, startCondition := k, rearm := rearm, haltReason := .none
                 role := .output { o with active := p, staged := none, segIndex := 0, ticksLeft := none, reps := 0,
                                          doneLevel := none } }
      (s.holdActive = true → x = .next (t.answered r .held [])) ∧
      (s.holdActive = false →
        (c.inPlay = true → x = .next (t.answered r .badState [])) ∧
        (c.inPlay = false →
          (o.active = none → o.staged = none → x = .next (t.answered r .notFound [])) ∧
          (o.active ≠ none ∨ o.staged ≠ none →
            (late → x = .next (t.answered r .late [])) ∧
            (¬late →
              (o.staged = none →
                x = .next ({ t with channels := t.channels.set ch (some (d o.active)) }.answered r .ok
                  (timeBytes s.time))) ∧
              ∀ g, o.staged = some g → ∃ store, t.store.Recounted store (fun _ => 0) (fieldRefs o.active) ∧
                x = .next (({ t with store := store, channels := t.channels.set ch (some (d (some g.pattern))) }.report
                  (.swap ch o.active g.pattern .start s.time)).answered r .ok (timeBytes s.time))))))

/-- START on an input channel: hold and patterns play no part, and the progress of the last run is cleared. -/
def Obligations.StartOnInputChannel : Prop :=
  ∀ (tag : Byte) (ch : ChannelId) (k : StartCondition) (rearm : Bool) (s : State) (c : Channel) (i : InputRole),
    let r : Request := ⟨0x2A, tag, startBody ch k rearm⟩
    let t := s.taken r
    let x := exec (.start tag (startBody ch k rearm)) s
    s.takes r = true → (rearm = true → k = .trigger) → (∀ time, k = .next time → time = s.time) →
    s.channels[ch] = some c → c.role = .input i →
      let late := ∃ time, k = .at time ∧ ¬(1 ≤ (time - s.time).toNat ∧ (time - s.time).toNat < 2 ^ 47)
      let d : Channel :=
        { c with activity := .waiting, startCondition := k, rearm := rearm, haltReason := .none
                 role := .input { i with accepted := none, qual := none, captures := 0, lastCapture := none,
                                         timeoutLeft := none } }
      (c.inPlay = true → x = .next (t.answered r .badState [])) ∧
      (c.inPlay = false → late → x = .next (t.answered r .late [])) ∧
      (c.inPlay = false → ¬late →
        x = .next ({ t with channels := t.channels.set ch (some d) }.answered r .ok (timeBytes s.time)))

/-- STOP halts a channel in WAITING or RUNNING, without event or report, and tells the state it found. -/
def Obligations.StopHaltsChannelInPlay : Prop :=
  ∀ (tag chb : Byte) (s : State),
    s.RefusesLength 0x2B tag (.stop tag) 1 ∧
    let r : Request := ⟨0x2B, tag, [chb]⟩
    let t := s.taken r
    let x := exec (.stop tag [chb]) s
    s.takes r = true →
      (16 ≤ chb.toNat → x = .next (t.answered r .badField [])) ∧
      ∀ ch : ChannelId, chb.toNat = ch.val →
        (s.channels[ch] = none → x = .next (t.answered r .badState [])) ∧
        ∀ c, s.channels[ch] = some c →
          (c.inPlay = false → x = .next (t.answered r .ok [activityByte c.activity])) ∧
          (c.inPlay = true →
            let role : Role := match c.role with
              | .output o => .output { o with ticksLeft := none }
              | .input i => .input { i with qual := none, timeoutLeft := none }
            let d : Channel := { c with activity := .halted, haltReason := .request, role := role }
            x = .next ({ t with channels := t.channels.set ch (some d) }.answered r .ok [activityByte c.activity]))

/-! ### Requests of the event fabric, and requests of no assigned kind -/

/-- SET_EMITTER makes a line's emitter entry; CLEAR_EMITTER removes it and tells its source and kind, and the listeners stay. -/
def Obligations.EmitterEntriesAreSetAndCleared : Prop :=
  (∀ (tag lb cb kb rb : Byte) (s : State),
     s.RefusesLength 0x30 tag (.setEmitter tag) 4 ∧
     let r : Request := ⟨0x30, tag, [lb, cb, kb, rb]⟩
     let t := s.taken r
     let x := exec (.setEmitter tag [lb, cb, kb, rb]) s
     s.takes r = true →
       (8 ≤ lb.toNat ∨ 16 ≤ cb.toNat ∨ 8 ≤ kb.toNat ∨ 2 ≤ rb.toNat → x = .next (t.answered r .badField [])) ∧
       ∀ (l : LineId) (ch : ChannelId) (k : EventKind) (b : Bool),
         lb.toNat = l.val → cb.toNat = ch.val → kb = eventByte k → rb = flagByte b →
         let wrongKind := ∃ c, s.channels[ch] = some c ∧
           ((∃ i, c.role = .input i ∧ k ∈ [EventKind.mark, .cycle, .swap, .done]) ∨
            (∃ o, c.role = .output o ∧ k ∈ [EventKind.edge, .timeout, .limit]))
         let frozen := s.isFrozen ch = true ∨ ∃ e, s.fabric.emitters[l] = some e ∧ s.isFrozen e.source = true
         (wrongKind → x = .next (t.answered r .badRole [])) ∧
         (¬wrongKind → frozen → x = .next (t.answered r .frozen [])) ∧
         (¬frozen → s.channels[ch] = none → x = .next (t.answered r .badState [])) ∧
         (¬wrongKind → ¬frozen → s.channels[ch] ≠ none → s.fabric.emitters[l] ≠ none →
           x = .next (t.answered r .conflict [])) ∧
         (¬wrongKind → ¬frozen → s.channels[ch] ≠ none → s.fabric.emitters[l] = none →
           let e : Emitter := { source := ch, kind := k, report := b }
           x = .next ({ t with fabric := { t.fabric with emitters := t.fabric.emitters.set l (some e) } }.answered
             r .ok [lb]))) ∧
  (∀ (tag lb : Byte) (s : State),
     s.RefusesLength 0x31 tag (.clearEmitter tag) 1 ∧
     let r : Request := ⟨0x31, tag, [lb]⟩
     let t := s.taken r
     let x := exec (.clearEmitter tag [lb]) s
     s.takes r = true →
       (8 ≤ lb.toNat → x = .next (t.answered r .badField [])) ∧
       ∀ l : LineId, lb.toNat = l.val →
         (s.fabric.emitters[l] = none → x = .next (t.answered r .notFound [])) ∧
         ∀ e, s.fabric.emitters[l] = some e →
           (s.isFrozen e.source = true → x = .next (t.answered r .frozen [])) ∧
           (s.isFrozen e.source = false →
             x = .next ({ t with fabric := { t.fabric with emitters := t.fabric.emitters.set l none } }.answered r .ok
               [idByte e.source, eventByte e.kind])))

/-- ADD_LISTENER makes an entry for a line and a target and tells the number of entries then in the table; REMOVE_LISTENER removes one and
tells its action and whether the target still holds a delivery from the line. -/
def Obligations.ListenerEntriesAreAddedAndRemoved : Prop :=
  (∀ (tag lb cb ab : Byte) (s : State),
     s.RefusesLength 0x32 tag (.addListener tag) 3 ∧
     let r : Request := ⟨0x32, tag, [lb, cb, ab]⟩
     let t := s.taken r
     let x := exec (.addListener tag [lb, cb, ab]) s
     s.takes r = true →
       (8 ≤ lb.toNat ∨ 16 ≤ cb.toNat ∨ 5 ≤ ab.toNat → x = .next (t.answered r .badField [])) ∧
       ∀ (l : LineId) (ch : ChannelId) (a : Action), lb.toNat = l.val → cb.toNat = ch.val → ab = actionByte a →
         (s.channels[ch] = none → x = .next (t.answered r .badState [])) ∧
         ∀ c, s.channels[ch] = some c →
           let wrongAction := (∃ i, c.role = .input i ∧ a ∈ [Action.restart, .swap]) ∨ (∃ o, c.role = .output o ∧ a = .stamp)
           (wrongAction → x = .next (t.answered r .badRole [])) ∧
           (¬wrongAction → c.frozen = true → x = .next (t.answered r .frozen [])) ∧
           (¬wrongAction → c.frozen = false →
             (s.fabric.listeners[l][ch] ≠ none → x = .next (t.answered r .conflict [])) ∧
             (s.fabric.listeners[l][ch] = none → 32 ≤ s.fabric.entries.length → x = .next (t.answered r .noSpace [])) ∧
             (s.fabric.listeners[l][ch] = none → s.fabric.entries.length < 32 →
               let f : Fabric :=
                 { t.fabric with listeners := t.fabric.listeners.set l ((t.fabric.listeners[l]).set ch (some a)) }
               x = .next ({ t with fabric := f }.answered r .ok [byte1 (s.fabric.entries.length + 1)])))) ∧
  (∀ (tag lb cb : Byte) (s : State),
     s.RefusesLength 0x33 tag (.removeListener tag) 2 ∧
     let r : Request := ⟨0x33, tag, [lb, cb]⟩
     let t := s.taken r
     let x := exec (.removeListener tag [lb, cb]) s
     s.takes r = true →
       (8 ≤ lb.toNat ∨ 16 ≤ cb.toNat → x = .next (t.answered r .badField [])) ∧
       ∀ (l : LineId) (ch : ChannelId), lb.toNat = l.val → cb.toNat = ch.val →
         (s.isFrozen ch = true → x = .next (t.answered r .frozen [])) ∧
         (s.isFrozen ch = false →
           (s.fabric.listeners[l][ch] = none → x = .next (t.answered r .notFound [])) ∧
           ∀ a, s.fabric.listeners[l][ch] = some a →
             let f : Fabric := { t.fabric with listeners := t.fabric.listeners.set l ((t.fabric.listeners[l]).set ch none) }
             ∀ b, (b = true ↔ ∃ c d, s.channels[ch] = some c ∧ c.deliveries[l] = some d) →
               x = .next ({ t with fabric := f }.answered r .ok [actionByte a, flagByte b])))

/-- QUERY_FABRIC tells both tables, the listener entries sorted by line and then by target, and changes nothing. -/
def Obligations.QueryFabricTellsTables : Prop :=
  ∀ (tag : Byte) (s : State),
    s.RefusesLength 0x34 tag (.queryFabric tag) 0 ∧
    let r : Request := ⟨0x34, tag, []⟩
    let emitter (l : LineId) : List Byte := match s.fabric.emitters[l] with
      | none => [0, 0xFF, 0, 0]
      | some e => [1, idByte e.source, eventByte e.kind, flagByte e.report]
    let listeners : List (List Byte) := lines.flatMap fun l => channelIds.filterMap fun d =>
      (s.fabric.listeners[l][d]).map fun a => [idByte l, idByte d, actionByte a]
    s.takes r = true →
      exec (.queryFabric tag []) s = .next ((s.taken r).answered r .ok
        (lines.flatMap emitter ++ [byte1 listeners.length] ++ listeners.flatten))

/-- A request of an unassigned KIND is refused BAD_KIND with the reply KIND 0x80, whatever its body. -/
def Obligations.UnassignedKindIsRefused : Prop :=
  ∀ (kind tag : Byte) (body : List Byte) (s : State),
    let r : Request := ⟨kind, tag, body⟩
    (kind = 0x00 ∨ 0x08 ≤ kind.toNat ∧ kind.toNat ≤ 0x0F ∨ 0x13 ≤ kind.toNat ∧ kind.toNat ≤ 0x1F ∨ kind = 0x27 ∨
      0x2C ≤ kind.toNat ∧ kind.toNat ≤ 0x2F ∨ 0x35 ≤ kind.toNat ∧ kind.toNat ≤ 0x7F) →
    s.takes r = true →
      let t := s.taken r
      let f : Frame := { kind := 0x80, tag := tag, body := [0x02] }
      exec (.badKind kind tag body) s = .next { t with link := { t.link with
        replies := t.link.replies ++ [f]
        replay := (if t.link.replay.length < 8 then t.link.replay else t.link.replay.tail) ++
          [{ tag := tag, crc := r.crc, reply := f }] } }

/-! ### The receiver, the transmitter, the resets -/

/-- Each byte that arrives is taken in the receiver's present state, by the table of R142. That BYTE_ARRIVES, as a command, leaves the
character sampler and the break detector's run of low samples as they are is the model's choice (notes/assumptions/24.md). -/
def Obligations.ByteIsTakenInReceiverState : Prop :=
  ∀ (b : Byte) (s : State), s.inColdReset = false →
    let x := exec (.byteArrives b) s
    let enter (q : Receiver) : State := { s with link := { s.link with receiver := q, gapTimer := 0 } }
    (s.link.receiver = .hunting → b = 0xB4 → x = .next (enter .length)) ∧
    (s.link.receiver = .hunting → b ≠ 0xB4 → x = .next s) ∧
    (s.link.receiver = .length → 2 ≤ b.toNat → b.toNat ≤ 250 → x = .next (enter (.content b.toNat []))) ∧
    (s.link.receiver = .length → b.toNat < 2 ∨ 250 < b.toNat →
      x = .next ((enter .hunting).report (.notice .length s.time))) ∧
    (∀ len got, s.link.receiver = .content len got →
      (got.length + 1 < len → x = .next (enter (.content len (got ++ [b])))) ∧
      (len ≤ got.length + 1 → x = .next (enter (.trailer (got ++ [b]) none)))) ∧
    (∀ content, s.link.receiver = .trailer content none → x = .next (enter (.trailer content (some b)))) ∧
    (∀ content hi, s.link.receiver = .trailer content (some hi) → x = exec (.frameEnd b) s)

/-- The second CRC byte: the frame is judged, and a valid request goes to the arrival checks. That FRAME_END, as a command, leaves the
character sampler and the break detector's run of low samples as they are is the model's choice (notes/assumptions/24.md). -/
def Obligations.FrameIsJudged : Prop :=
  ∀ (lo hi : Byte) (content : List Byte) (s : State), s.inColdReset = false →
    s.link.receiver = .trailer content (some hi) →
    let x := exec (.frameEnd lo) s
    let u : State := { s with link := { s.link with receiver := .hunting, gapTimer := 0 } }
    let agrees := crcOf (byte1 content.length :: content) = hi ++ lo
    (¬agrees → x = .next (u.report (.notice .crc s.time))) ∧
    (∀ kind tag body, agrees → content = kind :: tag :: body →
      (0x80 ≤ kind.toNat → x = .next (u.report (.notice .kind s.time))) ∧
      (kind.toNat < 0x80 → x = .next { u with link := u.link.arrive { kind := kind, tag := tag, body := body } }))

/-- A LEN byte that names no length, a gap timeout and a framing error: what each leaves of a frame in progress. That BAD_LEN, as a
command, leaves the character sampler and the break detector's run of low samples as they are, and FRAMING_ERROR that run, is the
model's choice (notes/assumptions/24.md). -/
def Obligations.FramesAreAbandoned : Prop :=
  ∀ (b : Byte) (s : State), s.inColdReset = false →
    let u : State := { s with link := { s.link with receiver := .hunting, gapTimer := 0 } }
    (s.link.receiver = .length → b.toNat < 2 ∨ 250 < b.toNat →
      exec (.badLen b) s = .next (u.report (.notice .length s.time))) ∧
    (s.link.receiver ≠ .hunting → exec .gapTimeout s = .next (u.report (.notice .gapTimeout s.time))) ∧
    exec .framingError s = .next { s with link := { s.link with sampler := .waitHigh } }

/-- The model's choices: a row of the receiver does nothing in a state of the receiver in which the thing it names cannot happen
(notes/assumptions/6.md), and, while the part is in cold reset, only the cold reset's own row does anything (notes/assumptions/8.md). -/
def Obligations.RowsOutOfPlaceDoNothing : Prop :=
  (∀ (b : Byte) (s : State),
     ((∀ content hi, s.link.receiver ≠ .trailer content (some hi)) → exec (.frameEnd b) s = .next s) ∧
     (s.link.receiver ≠ .length ∨ (2 ≤ b.toNat ∧ b.toNat ≤ 250) → exec (.badLen b) s = .next s) ∧
     (s.link.receiver = .hunting → exec .gapTimeout s = .next s)) ∧
  (∀ (i : Instr) (s : State), s.inColdReset = true → (∀ holdN lrx, i ≠ .coldReset holdN lrx) → exec i s = .next s)

/-- A link reset empties the link unit but for the reports and the frame in transmission, and touches no other block. That LINK_RESET, as
a command, leaves the character sampler and the break detector's run of low samples as they are, a run of 5,000 too, is the model's
choice (notes/assumptions/24.md). -/
def Obligations.LinkResetEmptiesLink : Prop :=
  ∀ s : State, s.inColdReset = false →
    let k : Link := { s.link with receiver := .hunting, gapTimer := 0, requests := [], replies := [], replay := [],
                                  credit := 0 }
    exec .linkReset s = .next { s with link :=
      if s.link.reports.length < 64 then
        { k with reports := s.link.reports ++ [{ seq := s.link.nextSeq, body := .notice .linkReset s.time }]
                 nextSeq := s.link.nextSeq + 1 }
      else { k with lost := min (s.link.lost + 1) 65535 } }

/-- The free transmitter is given the oldest reply, else the oldest report against a credit, and a GAP follows a departing report
when reports were lost: at once, or, when it is due, once at the end of the base tick, appended only into room and else left to the
next departure. `gapDue` is the model's own field (notes/assumptions/12.md). -/
def Obligations.TransmitterTakesNextFrame : Prop :=
  (∀ (gapFirst : Bool) (s : State), s.inColdReset = false →
     let x := exec (.transmitterFree gapFirst) s
     let wire (f : Frame) : Transmission :=
       { bytes := [0xB4, byte1 (f.body.length + 2), f.kind, f.tag] ++ f.body ++
           bytes2 (crcOf ([byte1 (f.body.length + 2), f.kind, f.tag] ++ f.body)).toNat
         elapsed := 0 }
     (∀ f rest, s.link.replies = f :: rest →
       x = .next { s with link := { s.link with replies := rest, transmission := some (wire f) } }) ∧
     (s.link.replies = [] → s.link.reports = [] ∨ s.link.credit = 0 →
       x = .next { s with link := { s.link with transmission := none } }) ∧
     (∀ r rest, s.link.replies = [] → s.link.reports = r :: rest → 1 ≤ s.link.credit → s.link.reports.length ≤ 64 →
       let k : Link := { s.link with reports := rest, credit := s.link.credit - 1, transmission := some (wire (reportFrame r)) }
       (gapFirst = true → s.link.lost = 0 → x = .next { s with link := k }) ∧
       (gapFirst = true → 0 < s.link.lost →
         x = .next { s with link := { k with
           reports := rest ++ [{ seq := s.link.nextSeq, body := .gap s.link.lost }]
           nextSeq := s.link.nextSeq + 1
           lost := 0 } }) ∧
       (gapFirst = false → x = .next { s with link := { k with gapDue := decide (0 < s.link.lost) } }))) ∧
  (∀ k : Link,
     (k.gapDue = false → k.settleGap = k) ∧
     (k.gapDue = true → 0 < k.lost → k.reports.length < 64 →
       k.settleGap = { k with
         reports := k.reports ++ [{ seq := k.nextSeq, body := .gap k.lost }]
         nextSeq := k.nextSeq + 1
         lost := 0
         gapDue := false }) ∧
     (k.gapDue = true → k.lost = 0 ∨ 64 ≤ k.reports.length → k.settleGap = { k with gapDue := false }))

/-- The frame of each report, byte by byte. -/
def Obligations.ReportsAreLaidOut : Prop :=
  ∀ (seq : Half) (ch : ChannelId) (time : Time),
    let q := bytes2 seq.toNat
    let t := timeBytes time
    let frame (b : ReportBody) (kind : Byte) (fields : List Byte) : Prop :=
      reportFrame { seq := seq, body := b } = { kind := kind, tag := 0x00, body := q ++ fields }
    (∀ n, frame (.capture ch .rise n time none) 0xC1 ([idByte ch, 0] ++ bytes2 n ++ t ++ [0])) ∧
    (∀ n d, frame (.capture ch .rise n time (some d)) 0xC1 ([idByte ch, 0] ++ bytes2 n ++ t ++ [1] ++ timeBytes d)) ∧
    (∀ n, frame (.capture ch .fall n time none) 0xC1 ([idByte ch, 1] ++ bytes2 n ++ t ++ [0])) ∧
    (∀ n d, frame (.capture ch .fall n time (some d)) 0xC1 ([idByte ch, 1] ++ bytes2 n ++ t ++ [1] ++ timeBytes d)) ∧
    (∀ n m, frame (.capture ch (.linked m) n time none) 0xC1 ([idByte ch, 2] ++ bytes2 n ++ t ++ [0, byte1 m])) ∧
    (∀ n m d, frame (.capture ch (.linked m) n time (some d)) 0xC1
      ([idByte ch, 2] ++ bytes2 n ++ t ++ [1] ++ timeBytes d ++ [byte1 m])) ∧
    (∀ n, frame (.capture ch .timeout n time none) 0xC1 ([idByte ch, 3] ++ bytes2 n ++ t ++ [0])) ∧
    (∀ n d, frame (.capture ch .timeout n time (some d)) 0xC1 ([idByte ch, 3] ++ bytes2 n ++ t ++ [1] ++ timeBytes d)) ∧
    frame (.state ch .doneFinished time) 0xC2 ([idByte ch, 4, 0] ++ t) ∧
    frame (.state ch .doneLimit time) 0xC2 ([idByte ch, 4, 1] ++ t) ∧
    frame (.state ch .haltedLinked time) 0xC2 ([idByte ch, 5, 2] ++ t) ∧
    frame (.state ch .haltedHold time) 0xC2 ([idByte ch, 5, 3] ++ t) ∧
    frame (.state ch .haltedTimeout time) 0xC2 ([idByte ch, 5, 4] ++ t) ∧
    (∀ (c : SwapCause) (b : Byte), (c, b) ∈ [(.segment, 0), (.cycle, 1), (.action, 2), (.start, 3)] → ∀ p,
      frame (.swap ch none p c time) 0xC3 ([idByte ch, 0xFF, idByte p, b] ++ t) ∧
      ∀ o, frame (.swap ch (some o) p c time) 0xC3 ([idByte ch, idByte o, idByte p, b] ++ t)) ∧
    (∀ (k : EventKind) (b : Byte),
      (k, b) ∈ [(.begin, 0), (.mark, 1), (.cycle, 2), (.swap, 3), (.done, 4), (.edge, 5), (.timeout, 6), (.limit, 7)] →
      ∀ l, frame (.line l ch k time) 0xC4 ([idByte l, idByte ch, b] ++ t)) ∧
    (∀ (c : HoldCause) (b : Byte), (c, b) ∈ [(.pin, 0), (.request, 1)] →
      frame (.hold false c time) 0xC5 ([0, b] ++ t) ∧ frame (.hold true c time) 0xC5 ([1, b] ++ t)) ∧
    (∀ (r : NoticeReason) (b : Byte),
      (r, b) ∈ [(.coldStart, 0), (.linkReset, 1), (.crc, 2), (.length, 3), (.gapTimeout, 4), (.kind, 5)] →
      frame (.notice r time) 0xC6 ([b] ++ t)) ∧
    (∀ n, frame (.gap n) 0xC7 (bytes2 n))

/-- A cold reset brings every block to its reset values, with the pin hold from HOLD_N and, when LRX is low at its end, a low period
that is counted from there. -/
def Obligations.ColdResetSetsEveryBlock : Prop :=
  ∀ (holdN lrx : Sample) (s : State),
    exec (.coldReset holdN lrx) s = .next
      { time := 0
        timebases := #v[⟨1, 0, .noTick⟩, ⟨100, 0, .noTick⟩, ⟨1000, 0, .noTick⟩, ⟨10000, 0, .noTick⟩]
        store := { rows := Vector.replicate 32 ⟨none, 0⟩, free := 256, defined := 0 }
        channels := Vector.replicate 16 none
        pinTable := Vector.replicate 20 none
        fabric := { emitters := Vector.replicate 8 none, listeners := Vector.replicate 8 (Vector.replicate 16 none) }
        hold := { pinHold := if holdN = .low then .asserted else .deasserted, runCount := 0, request := false }
        link :=
          { receiver := .hunting, gapTimer := 0, sampler := if lrx = .low then .sampling 0 [] else .idle
            lowRun := if lrx = .low then 1 else 0
            requests := [], replies := [], replay := [], reports := [{ seq := 0, body := .notice .coldStart 0 }]
            gapDue := false, credit := 0, lost := 0, nextSeq := 1, transmission := none }
        inColdReset := false
        resetRun := 0
        script := s.script
        unscripted := s.unscripted
        pending := s.pending }

/-! ### Events -/

/-- An event is carried by each line whose emitter names it, in ascending order: first the LINE report when asked for, then one
delivery placed, or one joined to the pending one, at each listener's target. -/
def Obligations.EventsReachListeners : Prop :=
  ∀ (s : State) (ch : ChannelId) (k : EventKind),
    let carries (l : LineId) : Bool := (s.fabric.emitters[l]).any fun e => decide (e.source = ch ∧ e.kind = k)
    let told (l : LineId) : Bool := (s.fabric.emitters[l]).any fun e => decide (e.source = ch ∧ e.kind = k) && e.report
    s.raise ch k =
      { s with
        channels := Vector.ofFn fun d : ChannelId => (s.channels[d]).map fun c =>
          { c with deliveries := Vector.ofFn fun l : LineId =>
              match s.fabric.listeners[l][d], c.deliveries[l] with
              | none, x => x
              | some a, none => if carries l then some { action := a, firstTime := s.time, count := 1 } else none
              | some _, some x => some (if carries l then { x with count := min (x.count + 1) 255 } else x) }
        link := ((lines.filter told).map fun l => ReportBody.line l ch k s.time).foldl Link.append s.link }

/-! ### Ticks of an output channel -/

/-- A tick at which nothing is due and there is no own work changes nothing. A row that names a thing at a tick is that whole tick where
the thing happens, and is never anything but the whole tick or nothing (the model's inference, notes/assumptions/5.md). -/
def Obligations.QuietAndNamedTicks : Prop :=
  (∀ (ch : ChannelId) (y : Sample) (s : State),
     (s.channels[ch] = none → exec (.channelTick ch y) s = .next s) ∧
     ∀ c, s.channels[ch] = some c → c.NothingDue s.time →
       (c.activity = .idle ∨ c.activity = .done ∨ c.activity = .halted ∨
         (c.activity = .waiting ∧
           (c.startCondition = .trigger ∨ (∃ time, c.startCondition = .next time ∧ ahead s.time time = false) ∨
             ∃ time, c.startCondition = .at time ∧ ahead time s.time = true))) →
       exec (.channelTick ch y) s = .next s) ∧
  (∀ (ch : ChannelId) (y : Sample) (s : State) (i : Instr),
     i = .pendingDeliveryApplied ch y ∨ i = .enterRunning ch y ∨ i = .segmentEnd ch y ∨ i = .edgeAccepted ch y ∨
       i = .timeoutExpiry ch y →
     exec i s = exec (.channelTick ch y) s ∨ exec i s = .next s) ∧
  (∀ (ch : ChannelId) (y : Sample) (s : State) (c : Channel), s.inColdReset = false → s.channels[ch] = some c →
     let tick := exec (.channelTick ch y) s
     ((∃ l d, c.FirstDue s.time l d) → exec (.pendingDeliveryApplied ch y) s = tick) ∧
     (c.NothingDue s.time →
       exec (.pendingDeliveryApplied ch y) s = .next s ∧
       (c.activity = .waiting →
         ((∃ time, c.startCondition = .next time ∧ ahead s.time time = true) ∨
           ∃ time, c.startCondition = .at time ∧ ahead time s.time = false) →
         exec (.enterRunning ch y) s = tick) ∧
       (c.activity = .running →
         (∀ o, c.role = .output o → o.ticksLeft = some 1 → exec (.segmentEnd ch y) s = tick) ∧
         ∀ i a, c.role = .input i → i.accepted = some a →
           ((∃ level start, i.Accepts a y s.time level start) → exec (.edgeAccepted ch y) s = tick) ∧
           ((∃ j, i.Sampled a y s.time j) → i.timeoutLeft = some 1 → exec (.timeoutExpiry ch y) s = tick))))

/-- A segment with `n` ticks left stands through fewer than `n` ticks, which count it and do nothing else. The ticks are commands and
share one device time, so a delivery not due at the first is not due at the others: the model's choice (notes/assumptions/20.md). -/
def Obligations.SegmentLastsItsTicks : Prop :=
  ∀ (ch : ChannelId) (ys : List Sample) (rest : List Instr) (s : State) (c : Channel) (o : OutputRole) (n : Nat),
    s.inColdReset = false → s.channels[ch] = some c → c.NothingDue s.time → c.activity = .running →
    c.role = .output o → o.ticksLeft = some n → ys.length < n →
      let d : Channel := { c with role := .output { o with ticksLeft := some (n - ys.length) } }
      Sys2Proof.core.run ys.length ({ s with pending := ys.map (Instr.channelTick ch) ++ rest } : State) =
        .next ({ s with channels := s.channels.set ch (some d), pending := rest } : State)

/-- The end of a segment that is not the last, with no pattern staged for it: MARK when its flag is set, and the next segment. -/
def Obligations.SegmentEndBeginsNext : Prop :=
  ∀ (ch : ChannelId) (y : Sample) (s : State) (c : Channel) (o : OutputRole) (p : PatternId) (q : Pattern) (g h : Segment),
    s.inColdReset = false → s.channels[ch] = some c → c.NothingDue s.time → c.activity = .running →
    c.role = .output o → o.ticksLeft = some 1 → o.active = some p → (s.store.rows[p]).pattern = some q →
    q.segments[o.segIndex]? = some g → q.segments[o.segIndex + 1]? = some h →
    (∀ w, o.staged = some w → w.point = .cycle) →
      let v := if g.mark then s.raise ch .mark else s
      ∃ e, v.channels[ch] = some { c with deliveries := e } ∧
        let d : Channel := { c with
          deliveries := e, role := .output { o with segIndex := o.segIndex + 1, ticksLeft := some h.duration } }
        let t := { v with channels := v.channels.set ch (some d) }
        exec (.segmentEnd ch y) s = .next t ∧ ∀ pin, s.pinTable[pin] = some ch → t.pinLevel pin = h.level

/-- A staged pattern swaps in at the segment end its swap point names: MARK, CYCLE when a repetition closed, the swap, the SWAP event
and the SWAP report. -/
def Obligations.StagedPatternSwapsIn : Prop :=
  ∀ (ch : ChannelId) (y : Sample) (s : State) (c : Channel) (o : OutputRole) (p : PatternId) (q : Pattern) (g : Segment)
    (w : Staged) (q' : Pattern) (g' : Segment),
    s.inColdReset = false → s.channels[ch] = some c → c.NothingDue s.time → c.activity = .running →
    c.role = .output o → o.ticksLeft = some 1 → o.active = some p → (s.store.rows[p]).pattern = some q →
    q.segments[o.segIndex]? = some g → o.staged = some w → (s.store.rows[w.pattern]).pattern = some q' →
    q'.segments[0]? = some g' → (w.point = SwapPoint.segment ∨ q.segments.length = o.segIndex + 1) →
      let m := if g.mark then s.raise ch .mark else s
      let v := if q.segments.length = o.segIndex + 1 then m.raise ch .cycle else m
      ∃ e store, v.channels[ch] = some { c with deliveries := e } ∧
        s.store.Recounted store (fun _ => 0) (fieldRefs (some p)) ∧
        let d : Channel := { c with
          deliveries := e
          role := .output { o with active := some w.pattern, staged := none, segIndex := 0, reps := 0,
                                   ticksLeft := some g'.duration } }
        exec (.segmentEnd ch y) s = .next
          (({ v with store := store, channels := v.channels.set ch (some d) }.raise ch .swap).report
            (.swap ch (some p) w.pattern (if w.point = SwapPoint.segment then SwapCause.segment else SwapCause.cycle) s.time))

/-- The end of the last segment with nothing staged: CYCLE, and then segment 0 again, or the end of play in DONE, or, with rearm set, in
WAITING (TRIGGER). -/
def Obligations.RepetitionEnds : Prop :=
  ∀ (ch : ChannelId) (y : Sample) (s : State) (c : Channel) (o : OutputRole) (p : PatternId) (q : Pattern) (g h : Segment),
    s.inColdReset = false → s.channels[ch] = some c → c.NothingDue s.time → c.activity = .running →
    c.role = .output o → o.ticksLeft = some 1 → o.active = some p → o.staged = none →
    (s.store.rows[p]).pattern = some q → q.segments[o.segIndex]? = some g → q.segments.length = o.segIndex + 1 →
    q.segments[0]? = some h →
      let x := exec (.segmentEnd ch y) s
      let reps := min (o.reps + 1) 65535
      let v := (if g.mark then s.raise ch .mark else s).raise ch .cycle
      let z := v.raise ch .done
      (q.repeatCount = 0 ∨ reps < q.repeatCount → ∃ e, v.channels[ch] = some { c with deliveries := e } ∧
        let d : Channel := { c with
          deliveries := e, role := .output { o with segIndex := 0, ticksLeft := some h.duration, reps := reps } }
        x = .next { v with channels := v.channels.set ch (some d) }) ∧
      (q.repeatCount ≠ 0 → q.repeatCount ≤ reps → ∃ e, z.channels[ch] = some { c with deliveries := e } ∧
        (c.rearm = false →
          let level := match q.rest with
            | .low => Level.low
            | .high => .high
            | .float => .float
            | .last => g.level
          let d : Channel := { c with
            deliveries := e, activity := .done
            role := .output { o with ticksLeft := none, reps := reps, doneLevel := some level } }
          x = .next ({ z with channels := z.channels.set ch (some d) }.report (.state ch .doneFinished s.time))) ∧
        (c.rearm = true →
          let d : Channel := { c with
            deliveries := e, activity := .waiting, startCondition := .trigger
            role := .output { o with segIndex := 0, ticksLeft := none, reps := 0 } }
          x = .next { z with channels := z.channels.set ch (some d) }))

/-- The levels on the pins. A timing pin shows the segment of its output channel in RUNNING, its done level in DONE and its idle level at
rest, and every other timing pin is not driven; ATTN_N tells of reports without credit; LTX sends a frame's characters, and is high
while nothing is sent. -/
def Obligations.PinsShowLevels : Prop :=
  (∀ (p : PinId) (s : State),
     (s.pinTable[p] = none → s.pinLevel p = .float) ∧
     ∀ (ch : ChannelId) (c : Channel), s.pinTable[p] = some ch → s.channels[ch] = some c →
       (∀ i, c.role = .input i → s.pinLevel p = .float) ∧
       ∀ o, c.role = .output o →
         (c.activity = .idle ∨ c.activity = .waiting ∨ c.activity = .halted → s.pinLevel p = o.idleLevel) ∧
         (∀ l, c.activity = .done → o.doneLevel = some l → s.pinLevel p = l) ∧
         (∀ k q g, c.activity = .running → o.active = some k → (s.store.rows[k]).pattern = some q →
           q.segments[o.segIndex]? = some g → s.pinLevel p = g.level)) ∧
  (∀ s : State,
     (s.attnN = .low ↔ s.link.reports ≠ [] ∧ s.link.credit = 0) ∧
     (s.link.transmission = none → s.ltx = .high) ∧
     ∀ (t : Transmission) (k j : Nat) (b : Byte), s.link.transmission = some t → t.bytes[k]? = some b →
       t.elapsed = 500 * k + j →
         (j < 50 → s.ltx = .low) ∧
         (∀ n, n < 8 → 50 * (n + 1) ≤ j → j < 50 * (n + 2) → s.ltx = if b.getLsbD n then .high else .low) ∧
         (450 ≤ j → j < 500 → s.ltx = .high))

/-- Entry to RUNNING by NEXT or AT: BEGIN; an output channel begins segment 0, an input channel takes its first sample. -/
def Obligations.ConditionMetEntersRunning : Prop :=
  ∀ (ch : ChannelId) (y : Sample) (s : State) (c : Channel),
    s.inColdReset = false → s.channels[ch] = some c → c.NothingDue s.time → c.activity = .waiting →
    ((∃ time, c.startCondition = .next time ∧ ahead s.time time = true) ∨
      ∃ time, c.startCondition = .at time ∧ ahead time s.time = false) →
      let x := exec (.enterRunning ch y) s
      (∀ o p q g, c.role = .output o → o.active = some p → (s.store.rows[p]).pattern = some q →
        q.segments[0]? = some g →
        let d : Channel := { c with activity := .running, role := .output { o with segIndex := 0, ticksLeft := some g.duration } }
        x = .next ({ s with channels := s.channels.set ch (some d) }.raise ch .begin)) ∧
      (∀ i, c.role = .input i → i.accepted = none →
        let v := { s with channels := s.channels.set ch (some { c with activity := .running }) }.raise ch .begin
        ∃ e, v.channels[ch] = some { c with activity := .running, deliveries := e } ∧
          let d : Channel := { c with
            activity := .running, deliveries := e
            role := .input { i with accepted := some y
                                    timeoutLeft := if i.timeoutWindow = 0 then none else some i.timeoutWindow } }
          x = .next { v with channels := v.channels.set ch (some d) })

/-! ### Deliveries -/

/-- A delivery whose action finds nothing to do is removed, and the tick goes on without it. `tickFrom` is a tick whose delivery stage has
reached a line: from line 0 it is CHANNEL_TICK, and with nothing more due it is the own work, which an output segment begun in the stage
leaves no more of. That PENDING_DELIVERY_APPLIED is the whole tick is the model's inference (notes/assumptions/5.md). -/
def Obligations.IdleDeliveriesAreRemoved : Prop :=
  (∀ (ch : ChannelId) (y : Sample) (s : State) (c : Channel) (l : LineId) (d : Delivery),
     s.inColdReset = false → s.channels[ch] = some c →
     ((d.action = .start ∧ (¬(c.activity = .waiting ∧ c.startCondition = .trigger) ∨
         (c.isOutput = true ∧ s.holdActive = true))) ∨
       (d.action = .stop ∧ c.inPlay = false) ∨
       (d.action = .restart ∧ (c.isOutput = false ∨ c.activity ≠ .running)) ∨
       (d.action = .swap ∧ (c.isOutput = false ∨ c.activity ≠ .running ∨ ∃ o, c.role = .output o ∧ o.staged = none)) ∨
       (d.action = .stamp ∧ (c.isOutput = true ∨ c.activity ≠ .running))) →
       let e : Channel := { c with deliveries := c.deliveries.set l none }
       let t : State := { s with channels := s.channels.set ch (some e) }
       (c.FirstDue s.time l d → exec (.pendingDeliveryApplied ch y) s = exec (.channelTick ch y) t) ∧
       ∀ n began, c.FirstDueFrom n s.time l d → s.tickFrom ch y n began = t.tickFrom ch y (l + 1) began) ∧
  (∀ (ch : ChannelId) (y : Sample) (s : State), s.inColdReset = false →
     exec (.channelTick ch y) s = .next (s.tickFrom ch y 0 false) ∧
     ∀ c n, s.channels[ch] = some c → c.NothingDue s.time →
       exec (.channelTick ch y) s = .next (s.tickFrom ch y n false) ∧
       s.tickFrom ch y n true =
         if c.isOutput = true ∧ c.activity = .running then s else s.tickFrom ch y n false)

/-- A delivered STOP halts a channel in play; a delivered START takes a channel in WAITING (TRIGGER) into RUNNING. On an output channel the
lines above see it so, in a tick that has begun a segment (`tickFrom`, true); on an input channel the tick goes on, and the first sample,
once nothing is due, becomes the accepted level and starts the window (R92, R100). That the delivery is gone before BEGIN is raised is the
model's inference (notes/assumptions/7.md), and that the row is the whole tick too (notes/assumptions/5.md). -/
def Obligations.DeliveredStopAndStart : Prop :=
  (∀ (ch : ChannelId) (y : Sample) (s : State) (c : Channel) (l : LineId) (d : Delivery),
     s.inColdReset = false → s.channels[ch] = some c →
       let x := exec (.pendingDeliveryApplied ch y) s
       let gone := c.deliveries.set l none
       (d.action = .stop → c.FirstDue s.time l d → c.inPlay = true →
         let role : Role := match c.role with
           | .output o => .output { o with ticksLeft := none }
           | .input i => .input { i with qual := none, timeoutLeft := none }
         let e : Channel := { c with activity := .halted, haltReason := .linked, deliveries := gone, role := role }
         x = exec (.channelTick ch y)
           ({ s with channels := s.channels.set ch (some e) }.report (.state ch .haltedLinked s.time))) ∧
       (∀ n began, d.action = .stop → c.FirstDueFrom n s.time l d → c.inPlay = true →
         let role : Role := match c.role with
           | .output o => .output { o with ticksLeft := none }
           | .input i => .input { i with qual := none, timeoutLeft := none }
         let e : Channel := { c with activity := .halted, haltReason := .linked, deliveries := gone, role := role }
         s.tickFrom ch y n began =
           ({ s with channels := s.channels.set ch (some e) }.report (.state ch .haltedLinked s.time)).tickFrom ch y (l + 1)
             began) ∧
       (∀ i, d.action = .start → c.FirstDue s.time l d → c.role = .input i → c.activity = .waiting →
         c.startCondition = .trigger →
         let e : Channel := { c with activity := .running, deliveries := gone }
         x = exec (.channelTick ch y) ({ s with channels := s.channels.set ch (some e) }.raise ch .begin)) ∧
       (∀ o p q g, d.action = .start → c.role = .output o → c.activity = .waiting →
         c.startCondition = .trigger → s.holdActive = false → o.active = some p →
         (s.store.rows[p]).pattern = some q → q.segments[0]? = some g →
         let e : Channel := { c with
           activity := .running, deliveries := gone, role := .output { o with segIndex := 0, ticksLeft := some g.duration } }
         let v := { s with channels := s.channels.set ch (some e) }.raise ch .begin
         (c.OnlyDue s.time l d → x = .next v) ∧
         (c.FirstDue s.time l d → x = .next (v.tickFrom ch y (l + 1) true)) ∧
         ∀ n began, c.FirstDueFrom n s.time l d → s.tickFrom ch y n began = v.tickFrom ch y (l + 1) true)) ∧
  (∀ (ch : ChannelId) (y : Sample) (s : State) (c : Channel) (i : InputRole),
     s.inColdReset = false → s.channels[ch] = some c → c.NothingDue s.time → c.activity = .running → c.role = .input i →
     i.accepted = none →
       let d : Channel := { c with
         role := .input { i with accepted := some y
                                 timeoutLeft := if i.timeoutWindow = 0 then none else some i.timeoutWindow } }
       exec (.channelTick ch y) s = .next { s with channels := s.channels.set ch (some d) })

/-- A delivered RESTART begins segment 0 of the active pattern again; a delivered SWAP takes the staged pattern at once. The lines above
see it so, in a tick that has begun a segment (`tickFrom`, true). That the delivery is gone before SWAP is raised is the model's
inference (notes/assumptions/7.md), and that the row is the whole tick too (notes/assumptions/5.md). -/
def Obligations.DeliveredRestartAndSwap : Prop :=
  ∀ (ch : ChannelId) (y : Sample) (s : State) (c : Channel) (o : OutputRole) (l : LineId) (d : Delivery) (p : PatternId),
    s.inColdReset = false → s.channels[ch] = some c → c.role = .output o → c.activity = .running → o.active = some p →
      let x := exec (.pendingDeliveryApplied ch y) s
      let gone := c.deliveries.set l none
      let applied (v : State) : Prop :=
        (c.OnlyDue s.time l d → x = .next v) ∧
        (c.FirstDue s.time l d → x = .next (v.tickFrom ch y (l + 1) true)) ∧
        ∀ n began, c.FirstDueFrom n s.time l d → s.tickFrom ch y n began = v.tickFrom ch y (l + 1) true
      (∀ q g, d.action = .restart → c.deliveries[l] = some d → (s.store.rows[p]).pattern = some q → q.segments[0]? = some g →
        let e : Channel := { c with
          deliveries := gone, role := .output { o with segIndex := 0, ticksLeft := some g.duration, reps := 0 } }
        applied { s with channels := s.channels.set ch (some e) }) ∧
      (∀ w q g, d.action = .swap → c.deliveries[l] = some d → o.staged = some w →
        (s.store.rows[w.pattern]).pattern = some q →
        q.segments[0]? = some g → ∃ store, s.store.Recounted store (fun _ => 0) (fieldRefs (some p)) ∧
          let e : Channel := { c with
            deliveries := gone
            role := .output { o with active := some w.pattern, staged := none, segIndex := 0, reps := 0,
                                     ticksLeft := some g.duration } }
          applied (({ s with store := store, channels := s.channels.set ch (some e) }.raise ch .swap).report
            (.swap ch (some p) w.pattern .action s.time)))

/-- A delivered STAMP makes a LINKED capture at the time of its first event, and the limit test follows. That the delivery is gone before
LIMIT is raised is the model's inference (notes/assumptions/7.md), and that the row is the whole tick too (notes/assumptions/5.md). -/
def Obligations.DeliveredStampCaptures : Prop :=
  ∀ (ch : ChannelId) (y : Sample) (s : State) (c : Channel) (i : InputRole) (l : LineId) (d : Delivery),
    s.inColdReset = false → s.channels[ch] = some c → c.FirstDue s.time l d → d.action = .stamp →
    c.role = .input i → c.activity = .running →
      let x := exec (.pendingDeliveryApplied ch y) s
      let n := min (i.captures + 1) 65535
      let interval := if i.mode = .interval then i.lastCapture.map fun last => d.firstTime - last else none
      let j : InputRole := { i with captures := n, lastCapture := some d.firstTime }
      let e : Channel := { c with deliveries := c.deliveries.set l none, role := .input j }
      let v := { s with channels := s.channels.set ch (some e) }.report
        (.capture ch (.linked d.count) n d.firstTime interval)
      let z := v.raise ch .limit
      (i.limit = 0 ∨ n ≠ i.limit → x = exec (.channelTick ch y) v) ∧
      (i.limit ≠ 0 → n = i.limit → ∃ f, z.channels[ch] = some { e with deliveries := f } ∧
        (c.rearm = false →
          let k : Channel := { e with
            deliveries := f, activity := .done, role := .input { j with qual := none, timeoutLeft := none } }
          x = exec (.channelTick ch y)
            ({ z with channels := z.channels.set ch (some k) }.report (.state ch .doneLimit s.time))) ∧
        (c.rearm = true →
          let k : Channel := { e with
            deliveries := f, activity := .waiting, startCondition := .trigger
            role := .input { j with captures := 0, accepted := none, qual := none, timeoutLeft := none } }
          x = exec (.channelTick ch y) { z with channels := z.channels.set ch (some k) }))

/-! ### Ticks of an input channel -/

/-- A tick whose sample makes no matching edge accepted, and at which the window does not expire, leaves what the sample leaves and
counts the window. -/
def Obligations.QualificationCounts : Prop :=
  ∀ (ch : ChannelId) (y a : Sample) (s : State) (c : Channel) (i j : InputRole),
    s.inColdReset = false → s.channels[ch] = some c → c.NothingDue s.time → c.activity = .running →
    c.role = .input i → i.accepted = some a → i.Sampled a y s.time j → (∀ n, i.timeoutLeft = some n → 1 < n) →
      let d : Channel := { c with role := .input { j with timeoutLeft := i.timeoutLeft.map fun n => n - 1 } }
      exec (.channelTick ch y) s = .next { s with channels := s.channels.set ch (some d) }

/-- A matching edge: the capture with its report, EDGE, the window again, and, at the limit, LIMIT and the end of play. -/
def Obligations.MatchingEdgeIsCaptured : Prop :=
  ∀ (ch : ChannelId) (y a level : Sample) (start : Time) (s : State) (c : Channel) (i : InputRole),
    s.inColdReset = false → s.channels[ch] = some c → c.NothingDue s.time → c.activity = .running →
    c.role = .input i → i.accepted = some a → i.Accepts a y s.time level start → i.Matches level →
      let x := exec (.edgeAccepted ch y) s
      let n := min (i.captures + 1) 65535
      let interval := if i.mode = .interval then i.lastCapture.map fun last => start - last else none
      let j : InputRole := { i with accepted := some level, qual := none, captures := n, lastCapture := some start }
      let v := ({ s with channels := s.channels.set ch (some { c with role := .input j }) }.report
        (.capture ch (if level = Sample.high then CaptureKind.rise else CaptureKind.fall) n start interval)).raise ch .edge
      let z := v.raise ch .limit
      (i.limit = 0 ∨ n ≠ i.limit → ∃ e, v.channels[ch] = some { c with deliveries := e, role := .input j } ∧
        let d : Channel := { c with
          deliveries := e
          role := .input { j with timeoutLeft := if i.timeoutWindow = 0 then none else some i.timeoutWindow } }
        x = .next { v with channels := v.channels.set ch (some d) }) ∧
      (i.limit ≠ 0 → n = i.limit → ∃ e, z.channels[ch] = some { c with deliveries := e, role := .input j } ∧
        (c.rearm = false →
          let d : Channel := { c with
            deliveries := e, activity := .done, role := .input { j with timeoutLeft := none } }
          x = .next ({ z with channels := z.channels.set ch (some d) }.report (.state ch .doneLimit s.time))) ∧
        (c.rearm = true →
          let d : Channel := { c with
            deliveries := e, activity := .waiting, startCondition := .trigger
            role := .input { j with captures := 0, accepted := none, timeoutLeft := none } }
          x = .next { z with channels := z.channels.set ch (some d) }))

/-- The timeout window expires: the TIMEOUT report, the TIMEOUT event, and the window again, or, under HALT, the halt with its report. -/
def Obligations.TimeoutWindowExpires : Prop :=
  ∀ (ch : ChannelId) (y a : Sample) (s : State) (c : Channel) (i j : InputRole),
    s.inColdReset = false → s.channels[ch] = some c → c.NothingDue s.time → c.activity = .running →
    c.role = .input i → i.accepted = some a → i.Sampled a y s.time j → i.timeoutLeft = some 1 → i.timeoutWindow ≠ 0 →
      let x := exec (.timeoutExpiry ch y) s
      let interval := if i.mode = .interval then i.lastCapture.map fun last => s.time - last else none
      let v := ({ s with channels := s.channels.set ch (some { c with role := .input j }) }.report
        (.capture ch .timeout i.captures s.time interval)).raise ch .timeout
      ∃ e, v.channels[ch] = some { c with deliveries := e, role := .input j } ∧
        (i.timeoutAction = .report →
          let d : Channel := { c with deliveries := e, role := .input { j with timeoutLeft := some i.timeoutWindow } }
          x = .next { v with channels := v.channels.set ch (some d) }) ∧
        (i.timeoutAction = .halt →
          let d : Channel := { c with
            deliveries := e, activity := .halted, haltReason := .timeout
            role := .input { j with qual := none, timeoutLeft := none } }
          x = .next ({ v with channels := v.channels.set ch (some d) }.report (.state ch .haltedTimeout s.time)))

/-! ### Whole-machine rules -/

/-- The bytes of a request's frame, arriving one after the other at a receiver in HUNTING, bring exactly that request to the arrival checks.
That the bytes, as commands, share one device time (notes/assumptions/20.md) and leave the character sampler and the break detector's run
of low samples as they are (notes/assumptions/24.md) is the model's choice. -/
def Obligations.FrameBytesBringTheRequest : Prop :=
  ∀ (r : Request) (rest : List Instr) (s : State),
    s.inColdReset = false → s.link.receiver = .hunting → r.body.length ≤ 248 → r.kind.toNat < 0x80 →
      let bytes := Frame.bytes { kind := r.kind, tag := r.tag, body := r.body }
      Sys2Proof.core.run bytes.length ({ s with pending := bytes.map Instr.byteArrives ++ rest } : State) =
        .next ({ s with pending := rest
                        link := Link.arrive { s.link with receiver := .hunting, gapTimer := 0 } r } : State)

/-- One base tick. The working part's device time, phase counters and RESET_N run count; then each unit takes one turn, in an order that
the tick's inputs pick (notes/assumptions/13.md), but at the end of a break the transmitter does not choose between the executor and the
receiver, whose link reset takes the reply away (R159, notes/assumptions/25.md); a GAP still due is settled before and after
(notes/assumptions/12.md). The reports of the ticks wait and join the queue in any order that keeps each tick's own (R60), with the turns
of the receiver and the transmitter among them, all before the next turn of the executor or the HOLD_N filter (notes/assumptions/23.md).
Low RESET_N for 100 base ticks, or a loss of the supply (notes/assumptions/15.md), is the cold reset, which ends at a high sample. Then
what each unit's turn is: the executor's request, a channel's tick at a tick of its timebase, the HOLD_N filter, the transmitter's frame,
and the receiver's gap timer, character sampler and break detector. That an empty queue lets a base tick pass, and its inputs, are the
model's choice (notes/assumptions/1.md, 2.md), and so are the tick mark (11.md) and the values held in cold reset (8.md). -/
def Obligations.BaseTickCounts : Prop :=
  (∀ (i : Config.TickInputs) (s : State), s.pending = [] → s.inColdReset = false →
     (s.script.head? = some i ∨ (s.script = [] ∧ i = Config.freeInputs s.unscripted)) →
     i.power = true → i.resetN = .high →
       let disagrees := (i.holdN = .low ∧ s.hold.pinHold = .deasserted) ∨ (i.holdN = .high ∧ s.hold.pinHold = .asserted)
       ∃ t, step s = .next t ∧ t.time = s.time + 1 ∧ t.script = s.script.tail ∧ t.pending = [] ∧ t.inColdReset = false ∧
         (¬disagrees → t.hold.runCount = 0 ∧ t.hold.pinHold = s.hold.pinHold) ∧
         (disagrees → s.hold.runCount < 99 →
           t.hold.runCount = s.hold.runCount + 1 ∧ t.hold.pinHold = s.hold.pinHold) ∧
         (disagrees → 99 ≤ s.hold.runCount →
           t.hold.runCount = 0 ∧ t.hold.pinHold = if i.holdN = .low then .asserted else .deasserted)) ∧
  (∀ (i : Config.TickInputs) (s a : State), s.pending = [] → s.Meets i a →
     let cold : State := { State.cold with inColdReset := true, script := a.script, unscripted := a.unscripted }
     (i.power = false → step s = .next cold) ∧
     (i.power = true → s.inColdReset = true →
       (i.resetN = .low → step s = .next a) ∧
       (i.resetN = .high → step s = exec (.coldReset i.holdN i.lrx) a)) ∧
     (i.power = true → s.inColdReset = false →
       (i.resetN = .low → 99 ≤ s.resetRun → step s = .next cold) ∧
       (i.resetN = .high ∨ s.resetRun < 99 →
         let counted (q : Timebase) : Timebase :=
           if q.phase + 1 < q.divisor then { q with phase := q.phase + 1, tick := .noTick }
           else { q with phase := 0, tick := .due }
         let b : State := { a with
           time := s.time + 1
           timebases := s.timebases.map counted
           resetRun := if i.resetN = .low then s.resetRun + 1 else 0
           link := s.link.settleGap }
         let w : Round := { state := b, linkTurns := [], raised := [], picks := i.reportOrder }
         step s = .next (((s.unitOrder i).foldl (Round.turn i) w).settle i).state.settleGap))) ∧
  (∀ us : List TickUnit, us.Perm tickUnits ↔ ∃ order, arrange order tickUnits = us) ∧
  (∀ (i : Config.TickInputs) (s : State),
     let us := arrange i.order tickUnits
     let vs := s.unitOrder i
     let between := us.idxOf .executor < us.idxOf .transmitter ∧ us.idxOf .transmitter < us.idxOf .receiver
     vs.Perm tickUnits ∧
     (i.lrx = .low ∨ s.link.lowRun < 5000 ∨ ¬between → vs = us) ∧
     (i.lrx = .high → 5000 ≤ s.link.lowRun → vs.idxOf .executor < vs.idxOf .transmitter →
       vs.idxOf .receiver < vs.idxOf .transmitter)) ∧
  (∀ (xss : List (List LinkStep)) (ys : List LinkStep), Interleaved xss ys ↔ ∃ picks, interleave picks xss = ys) ∧
  (∀ (i : Config.TickInputs) (w : Round),
     let ys := interleave w.picks (w.linkTurns :: w.raised)
     let one (s : State) (y : LinkStep) : State := match y with
       | .append b => s.report b
       | .receive => State.turn i s .receiver
       | .transmit => State.turn i s .transmitter
     let settled : Round :=
       { state := ys.foldl one w.state, linkTurns := [], raised := [], picks := w.picks.drop ys.length }
     w.settle i = settled ∧
     w.turn i .executor = { settled with state := State.turn i settled.state .executor } ∧
     w.turn i .holdFilter = { settled with state := State.turn i settled.state .holdFilter } ∧
     w.turn i .receiver = { w with linkTurns := w.linkTurns ++ [.receive] } ∧
     w.turn i .transmitter = { w with linkTurns := w.linkTurns ++ [.transmit] } ∧
     ∀ ch : ChannelId, ∃ (t : State) (bs : List ReportBody),
       (∀ k : Link, State.turn i { w.state with link := k } (.channel ch) = { t with link := bs.foldl Link.append k }) ∧
       w.turn i (.channel ch) =
         { w with state := { t with link := w.state.link }, raised := w.raised ++ [bs.map LinkStep.append] }) ∧
  (∀ (i : Config.TickInputs) (s : State), s.inColdReset = false →
     (let t := State.turn i s .executor
      (s.link.requests = [] ∨ 8 ≤ s.link.replies.length → t = s) ∧
      ∀ r rest, s.link.requests = r :: rest → s.link.replies.length < 8 → exec r.command s = .next t) ∧
     (∀ ch : ChannelId,
       let t := State.turn i s (.channel ch)
       (s.channels[ch] = none → t = s) ∧
       ∀ c, s.channels[ch] = some c →
         ((s.timebases[c.timebase]).tick = .noTick → t = s) ∧
         ((s.timebases[c.timebase]).tick ≠ .noTick →
           let q : Timebase := { s.timebases[c.timebase] with tick := .taken }
           exec (.channelTick ch i.pins[c.pin]) { s with timebases := s.timebases.set c.timebase q } = .next t)) ∧
     (let t := State.turn i s .holdFilter
      let disagrees := (i.holdN = .low ∧ s.hold.pinHold = .deasserted) ∨ (i.holdN = .high ∧ s.hold.pinHold = .asserted)
      (¬disagrees → t = { s with hold := { s.hold with runCount := 0 } }) ∧
      (disagrees → s.hold.runCount < 99 → t = { s with hold := { s.hold with runCount := s.hold.runCount + 1 } }) ∧
      (disagrees → 99 ≤ s.hold.runCount → exec .pinHoldChange s = .next t)) ∧
     (let t := State.turn i s .transmitter
      (s.link.transmission = none → exec (.transmitterFree i.gapFirst) s = .next t) ∧
      ∀ w, s.link.transmission = some w →
        (500 * w.bytes.length ≤ w.elapsed + 1 → exec (.transmitterFree i.gapFirst) s = .next t) ∧
        (w.elapsed + 1 < 500 * w.bytes.length →
          t = { s with link := { s.link with transmission := some { w with elapsed := w.elapsed + 1 } } })) ∧
     (let t := State.turn i s .receiver
      ∃ u v : State,
        (s.link.receiver = .hunting → u = s) ∧
        (s.link.receiver ≠ .hunting →
          (s.link.gapTimer < 100000 → u = { s with link := { s.link with gapTimer := s.link.gapTimer + 1 } }) ∧
          (100000 ≤ s.link.gapTimer → exec .gapTimeout s = .next u)) ∧
        (let sampler (c : CharSampler) : State := { u with link := { u.link with sampler := c } }
         (u.link.sampler = .idle → v = if i.lrx = .low then sampler (.sampling 0 []) else u) ∧
         (u.link.sampler = .waitHigh → v = if i.lrx = .high then sampler .idle else u) ∧
         ∀ age bits, u.link.sampler = .sampling age bits →
           (age + 1 < 475 → (∃ k, age + 1 = 75 + 50 * k) →
             v = sampler (.sampling (age + 1) (bits ++ [decide (i.lrx = .high)]))) ∧
           (age + 1 < 475 → (∀ k, age + 1 ≠ 75 + 50 * k) → v = sampler (.sampling (age + 1) bits)) ∧
           (475 ≤ age + 1 → i.lrx = .low → exec .framingError u = .next v) ∧
           ∀ b : Byte, 475 ≤ age + 1 → i.lrx = .high → bits = (List.range 8).map b.getLsbD →
             exec (.byteArrives b) (sampler .idle) = .next v) ∧
        (i.lrx = .low → t = { v with link := { v.link with lowRun := min (v.link.lowRun + 1) 5000 } }) ∧
        (i.lrx = .high →
          let z : State := { v with link := { v.link with lowRun := 0 } }
          (v.link.lowRun < 5000 → t = z) ∧
          (5000 ≤ v.link.lowRun → exec .linkReset z = .next t))))

/-- No command but a cold reset changes what a frozen channel is wired to: its pin, timebase, role and configuration, its fabric entries,
and its timebase's divisor. -/
def Obligations.FrozenWiringStays : Prop :=
  ∀ (i : Instr) (s t : State) (ch : ChannelId) (c : Channel),
    (∀ holdN lrx, i ≠ .coldReset holdN lrx) → s.channels[ch] = some c → c.frozen = true → exec i s = .next t →
      (∃ d, t.channels[ch] = some d ∧ d.frozen = true ∧ d.pin = c.pin ∧ d.timebase = c.timebase ∧
        d.role.cleared = c.role.cleared) ∧
      (∀ (l : LineId) (e : Emitter), e.source = ch → (t.fabric.emitters[l] = some e ↔ s.fabric.emitters[l] = some e)) ∧
      (∀ l : LineId, t.fabric.listeners[l][ch] = s.fabric.listeners[l][ch]) ∧
      (t.timebases[c.timebase]).divisor = (s.timebases[c.timebase]).divisor

/-! ### Invariants -/

/-- The pool's accounting, the rows' ranges, the user counts and the play of every output channel are kept by every step. -/
def Obligations.PatternsAndPlayStaySound : Prop :=
  ∀ s t : State, s.store.Accounted → s.PlaySound → step s = .next t → t.store.Accounted ∧ t.PlaySound

/-- The pin table agrees with the records, every timebase keeps its phase below its divisor, and no output channel is in play while hold
is active; every step keeps this. -/
def Obligations.PinsTimebasesAndHoldStaySound : Prop :=
  ∀ s t : State, s.PinsSound → s.TimebasesSound → s.HeldOut → step s = .next t →
    t.PinsSound ∧ t.TimebasesSound ∧ t.HeldOut

/-- Emitters and listeners name bound channels with valid kinds and actions, 32 listeners at most, and every record is sound in what both
roles share; every step keeps this. -/
def Obligations.FabricAndRecordsStaySound : Prop :=
  ∀ s t : State, s.FabricSound → s.CommonSound → step s = .next t → t.FabricSound ∧ t.CommonSound

/-- Every input channel's progress stays sound: captures below the limit in play, the window within its length, a qualification below
its window and against the accepted level. -/
def Obligations.CaptureProgressStaysSound : Prop :=
  ∀ s t : State, s.CaptureSound → step s = .next t → t.CaptureSound

/-- The link unit's collections stay within their capacities, no tag stands twice in the request queue and the replay table, and the report
queue's numbers stay consecutive. -/
def Obligations.LinkStaysSound : Prop :=
  ∀ s t : State, s.link.Bounded → s.link.TagsDistinct → s.link.Consecutive → step s = .next t →
    t.link.Bounded ∧ t.link.TagsDistinct ∧ t.link.Consecutive

/-- Every invariant holds right after cold reset. -/
def Obligations.ResetIsSound : Prop :=
  State.reset.store.Accounted ∧ State.reset.PlaySound ∧ State.reset.PinsSound ∧ State.reset.TimebasesSound ∧
  State.reset.HeldOut ∧ State.reset.FabricSound ∧ State.reset.CommonSound ∧ State.reset.CaptureSound ∧
  State.reset.link.Bounded ∧ State.reset.link.TagsDistinct ∧ State.reset.link.Consecutive
end

