-- ==== Sys2Proof/Laws/State.lean ====
section
/-! SUPPORT. One lemma per field for each update of the state, all true by definition, so that no proof unfolds an update. -/

namespace Sys2Proof.Machine

/-! ### `State.setChannel` -/

@[simp] theorem State.setChannel_time (s : State) (ch : ChannelId) (c : Option Channel) : (s.setChannel ch c).time = s.time := rfl
@[simp] theorem State.setChannel_timebases (s : State) (ch : ChannelId) (c : Option Channel) : (s.setChannel ch c).timebases = s.timebases := rfl
@[simp] theorem State.setChannel_store (s : State) (ch : ChannelId) (c : Option Channel) : (s.setChannel ch c).store = s.store := rfl
@[simp] theorem State.setChannel_channels (s : State) (ch : ChannelId) (c : Option Channel) : (s.setChannel ch c).channels = s.channels.set ch c := rfl
@[simp] theorem State.setChannel_pinTable (s : State) (ch : ChannelId) (c : Option Channel) : (s.setChannel ch c).pinTable = s.pinTable := rfl
@[simp] theorem State.setChannel_fabric (s : State) (ch : ChannelId) (c : Option Channel) : (s.setChannel ch c).fabric = s.fabric := rfl
@[simp] theorem State.setChannel_hold (s : State) (ch : ChannelId) (c : Option Channel) : (s.setChannel ch c).hold = s.hold := rfl
@[simp] theorem State.setChannel_link (s : State) (ch : ChannelId) (c : Option Channel) : (s.setChannel ch c).link = s.link := rfl
@[simp] theorem State.setChannel_inColdReset (s : State) (ch : ChannelId) (c : Option Channel) : (s.setChannel ch c).inColdReset = s.inColdReset := rfl
@[simp] theorem State.setChannel_resetRun (s : State) (ch : ChannelId) (c : Option Channel) : (s.setChannel ch c).resetRun = s.resetRun := rfl
@[simp] theorem State.setChannel_script (s : State) (ch : ChannelId) (c : Option Channel) : (s.setChannel ch c).script = s.script := rfl
@[simp] theorem State.setChannel_unscripted (s : State) (ch : ChannelId) (c : Option Channel) : (s.setChannel ch c).unscripted = s.unscripted := rfl
@[simp] theorem State.setChannel_pending (s : State) (ch : ChannelId) (c : Option Channel) : (s.setChannel ch c).pending = s.pending := rfl

/-! ### `State.report` -/

@[simp] theorem State.report_time (s : State) (b : ReportBody) : (s.report b).time = s.time := rfl
@[simp] theorem State.report_timebases (s : State) (b : ReportBody) : (s.report b).timebases = s.timebases := rfl
@[simp] theorem State.report_store (s : State) (b : ReportBody) : (s.report b).store = s.store := rfl
@[simp] theorem State.report_channels (s : State) (b : ReportBody) : (s.report b).channels = s.channels := rfl
@[simp] theorem State.report_pinTable (s : State) (b : ReportBody) : (s.report b).pinTable = s.pinTable := rfl
@[simp] theorem State.report_fabric (s : State) (b : ReportBody) : (s.report b).fabric = s.fabric := rfl
@[simp] theorem State.report_hold (s : State) (b : ReportBody) : (s.report b).hold = s.hold := rfl
@[simp] theorem State.report_link (s : State) (b : ReportBody) : (s.report b).link = s.link.append b := rfl
@[simp] theorem State.report_inColdReset (s : State) (b : ReportBody) : (s.report b).inColdReset = s.inColdReset := rfl
@[simp] theorem State.report_resetRun (s : State) (b : ReportBody) : (s.report b).resetRun = s.resetRun := rfl
@[simp] theorem State.report_script (s : State) (b : ReportBody) : (s.report b).script = s.script := rfl
@[simp] theorem State.report_unscripted (s : State) (b : ReportBody) : (s.report b).unscripted = s.unscripted := rfl
@[simp] theorem State.report_pending (s : State) (b : ReportBody) : (s.report b).pending = s.pending := rfl

/-! ### `State.notice` -/

@[simp] theorem State.notice_time (s : State) (r : NoticeReason) : (s.notice r).time = s.time := rfl
@[simp] theorem State.notice_timebases (s : State) (r : NoticeReason) : (s.notice r).timebases = s.timebases := rfl
@[simp] theorem State.notice_store (s : State) (r : NoticeReason) : (s.notice r).store = s.store := rfl
@[simp] theorem State.notice_channels (s : State) (r : NoticeReason) : (s.notice r).channels = s.channels := rfl
@[simp] theorem State.notice_pinTable (s : State) (r : NoticeReason) : (s.notice r).pinTable = s.pinTable := rfl
@[simp] theorem State.notice_fabric (s : State) (r : NoticeReason) : (s.notice r).fabric = s.fabric := rfl
@[simp] theorem State.notice_hold (s : State) (r : NoticeReason) : (s.notice r).hold = s.hold := rfl
@[simp] theorem State.notice_link (s : State) (r : NoticeReason) : (s.notice r).link = s.link.append (.notice r s.time) := rfl
@[simp] theorem State.notice_inColdReset (s : State) (r : NoticeReason) : (s.notice r).inColdReset = s.inColdReset := rfl
@[simp] theorem State.notice_resetRun (s : State) (r : NoticeReason) : (s.notice r).resetRun = s.resetRun := rfl
@[simp] theorem State.notice_script (s : State) (r : NoticeReason) : (s.notice r).script = s.script := rfl
@[simp] theorem State.notice_unscripted (s : State) (r : NoticeReason) : (s.notice r).unscripted = s.unscripted := rfl
@[simp] theorem State.notice_pending (s : State) (r : NoticeReason) : (s.notice r).pending = s.pending := rfl

/-! ### `State.receiving` -/

@[simp] theorem State.receiving_time (s : State) (r : Receiver) : (s.receiving r).time = s.time := rfl
@[simp] theorem State.receiving_timebases (s : State) (r : Receiver) : (s.receiving r).timebases = s.timebases := rfl
@[simp] theorem State.receiving_store (s : State) (r : Receiver) : (s.receiving r).store = s.store := rfl
@[simp] theorem State.receiving_channels (s : State) (r : Receiver) : (s.receiving r).channels = s.channels := rfl
@[simp] theorem State.receiving_pinTable (s : State) (r : Receiver) : (s.receiving r).pinTable = s.pinTable := rfl
@[simp] theorem State.receiving_fabric (s : State) (r : Receiver) : (s.receiving r).fabric = s.fabric := rfl
@[simp] theorem State.receiving_hold (s : State) (r : Receiver) : (s.receiving r).hold = s.hold := rfl
@[simp] theorem State.receiving_link (s : State) (r : Receiver) : (s.receiving r).link = { s.link with receiver := r, gapTimer := 0 } := rfl
@[simp] theorem State.receiving_inColdReset (s : State) (r : Receiver) : (s.receiving r).inColdReset = s.inColdReset := rfl
@[simp] theorem State.receiving_resetRun (s : State) (r : Receiver) : (s.receiving r).resetRun = s.resetRun := rfl
@[simp] theorem State.receiving_script (s : State) (r : Receiver) : (s.receiving r).script = s.script := rfl
@[simp] theorem State.receiving_unscripted (s : State) (r : Receiver) : (s.receiving r).unscripted = s.unscripted := rfl
@[simp] theorem State.receiving_pending (s : State) (r : Receiver) : (s.receiving r).pending = s.pending := rfl

/-! ### `State.sampling` -/

@[simp] theorem State.sampling_time (s : State) (c : CharSampler) : (s.sampling c).time = s.time := rfl
@[simp] theorem State.sampling_timebases (s : State) (c : CharSampler) : (s.sampling c).timebases = s.timebases := rfl
@[simp] theorem State.sampling_store (s : State) (c : CharSampler) : (s.sampling c).store = s.store := rfl
@[simp] theorem State.sampling_channels (s : State) (c : CharSampler) : (s.sampling c).channels = s.channels := rfl
@[simp] theorem State.sampling_pinTable (s : State) (c : CharSampler) : (s.sampling c).pinTable = s.pinTable := rfl
@[simp] theorem State.sampling_fabric (s : State) (c : CharSampler) : (s.sampling c).fabric = s.fabric := rfl
@[simp] theorem State.sampling_hold (s : State) (c : CharSampler) : (s.sampling c).hold = s.hold := rfl
@[simp] theorem State.sampling_link (s : State) (c : CharSampler) : (s.sampling c).link = { s.link with sampler := c } := rfl
@[simp] theorem State.sampling_inColdReset (s : State) (c : CharSampler) : (s.sampling c).inColdReset = s.inColdReset := rfl
@[simp] theorem State.sampling_resetRun (s : State) (c : CharSampler) : (s.sampling c).resetRun = s.resetRun := rfl
@[simp] theorem State.sampling_script (s : State) (c : CharSampler) : (s.sampling c).script = s.script := rfl
@[simp] theorem State.sampling_unscripted (s : State) (c : CharSampler) : (s.sampling c).unscripted = s.unscripted := rfl
@[simp] theorem State.sampling_pending (s : State) (c : CharSampler) : (s.sampling c).pending = s.pending := rfl

/-! ### `State.framingError` -/

@[simp] theorem State.framingError_time (s : State) : s.framingError.time = s.time := rfl
@[simp] theorem State.framingError_timebases (s : State) : s.framingError.timebases = s.timebases := rfl
@[simp] theorem State.framingError_store (s : State) : s.framingError.store = s.store := rfl
@[simp] theorem State.framingError_channels (s : State) : s.framingError.channels = s.channels := rfl
@[simp] theorem State.framingError_pinTable (s : State) : s.framingError.pinTable = s.pinTable := rfl
@[simp] theorem State.framingError_fabric (s : State) : s.framingError.fabric = s.fabric := rfl
@[simp] theorem State.framingError_hold (s : State) : s.framingError.hold = s.hold := rfl
@[simp] theorem State.framingError_link (s : State) : s.framingError.link = { s.link with sampler := .waitHigh } := rfl
@[simp] theorem State.framingError_inColdReset (s : State) : s.framingError.inColdReset = s.inColdReset := rfl
@[simp] theorem State.framingError_resetRun (s : State) : s.framingError.resetRun = s.resetRun := rfl
@[simp] theorem State.framingError_script (s : State) : s.framingError.script = s.script := rfl
@[simp] theorem State.framingError_unscripted (s : State) : s.framingError.unscripted = s.unscripted := rfl
@[simp] theorem State.framingError_pending (s : State) : s.framingError.pending = s.pending := rfl

/-! ### `State.linkReset` -/

@[simp] theorem State.linkReset_time (s : State) : s.linkReset.time = s.time := rfl
@[simp] theorem State.linkReset_timebases (s : State) : s.linkReset.timebases = s.timebases := rfl
@[simp] theorem State.linkReset_store (s : State) : s.linkReset.store = s.store := rfl
@[simp] theorem State.linkReset_channels (s : State) : s.linkReset.channels = s.channels := rfl
@[simp] theorem State.linkReset_pinTable (s : State) : s.linkReset.pinTable = s.pinTable := rfl
@[simp] theorem State.linkReset_fabric (s : State) : s.linkReset.fabric = s.fabric := rfl
@[simp] theorem State.linkReset_hold (s : State) : s.linkReset.hold = s.hold := rfl
@[simp] theorem State.linkReset_link (s : State) : s.linkReset.link = s.link.resetLink.append (.notice .linkReset s.time) := rfl
@[simp] theorem State.linkReset_inColdReset (s : State) : s.linkReset.inColdReset = s.inColdReset := rfl
@[simp] theorem State.linkReset_resetRun (s : State) : s.linkReset.resetRun = s.resetRun := rfl
@[simp] theorem State.linkReset_script (s : State) : s.linkReset.script = s.script := rfl
@[simp] theorem State.linkReset_unscripted (s : State) : s.linkReset.unscripted = s.unscripted := rfl
@[simp] theorem State.linkReset_pending (s : State) : s.linkReset.pending = s.pending := rfl

/-! ### `State.settleGap` -/

@[simp] theorem State.settleGap_time (s : State) : s.settleGap.time = s.time := rfl
@[simp] theorem State.settleGap_timebases (s : State) : s.settleGap.timebases = s.timebases := rfl
@[simp] theorem State.settleGap_store (s : State) : s.settleGap.store = s.store := rfl
@[simp] theorem State.settleGap_channels (s : State) : s.settleGap.channels = s.channels := rfl
@[simp] theorem State.settleGap_pinTable (s : State) : s.settleGap.pinTable = s.pinTable := rfl
@[simp] theorem State.settleGap_fabric (s : State) : s.settleGap.fabric = s.fabric := rfl
@[simp] theorem State.settleGap_hold (s : State) : s.settleGap.hold = s.hold := rfl
@[simp] theorem State.settleGap_link (s : State) : s.settleGap.link = s.link.settleGap := rfl
@[simp] theorem State.settleGap_inColdReset (s : State) : s.settleGap.inColdReset = s.inColdReset := rfl
@[simp] theorem State.settleGap_resetRun (s : State) : s.settleGap.resetRun = s.resetRun := rfl
@[simp] theorem State.settleGap_script (s : State) : s.settleGap.script = s.script := rfl
@[simp] theorem State.settleGap_unscripted (s : State) : s.settleGap.unscripted = s.unscripted := rfl
@[simp] theorem State.settleGap_pending (s : State) : s.settleGap.pending = s.pending := rfl

/-! ### `State.popped` -/

@[simp] theorem State.popped_time (s : State) : s.popped.time = s.time := rfl
@[simp] theorem State.popped_timebases (s : State) : s.popped.timebases = s.timebases := rfl
@[simp] theorem State.popped_store (s : State) : s.popped.store = s.store := rfl
@[simp] theorem State.popped_channels (s : State) : s.popped.channels = s.channels := rfl
@[simp] theorem State.popped_pinTable (s : State) : s.popped.pinTable = s.pinTable := rfl
@[simp] theorem State.popped_fabric (s : State) : s.popped.fabric = s.fabric := rfl
@[simp] theorem State.popped_hold (s : State) : s.popped.hold = s.hold := rfl
@[simp] theorem State.popped_link (s : State) : s.popped.link = { s.link with requests := s.link.requests.tail } := rfl
@[simp] theorem State.popped_inColdReset (s : State) : s.popped.inColdReset = s.inColdReset := rfl
@[simp] theorem State.popped_resetRun (s : State) : s.popped.resetRun = s.resetRun := rfl
@[simp] theorem State.popped_script (s : State) : s.popped.script = s.script := rfl
@[simp] theorem State.popped_unscripted (s : State) : s.popped.unscripted = s.unscripted := rfl
@[simp] theorem State.popped_pending (s : State) : s.popped.pending = s.pending := rfl

/-! ### `State.answered` -/

@[simp] theorem State.answered_time (s : State) (r : Request) (st : Status) (bs : List Byte) : (s.answered r st bs).time = s.time := rfl
@[simp] theorem State.answered_timebases (s : State) (r : Request) (st : Status) (bs : List Byte) : (s.answered r st bs).timebases = s.timebases := rfl
@[simp] theorem State.answered_store (s : State) (r : Request) (st : Status) (bs : List Byte) : (s.answered r st bs).store = s.store := rfl
@[simp] theorem State.answered_channels (s : State) (r : Request) (st : Status) (bs : List Byte) : (s.answered r st bs).channels = s.channels := rfl
@[simp] theorem State.answered_pinTable (s : State) (r : Request) (st : Status) (bs : List Byte) : (s.answered r st bs).pinTable = s.pinTable := rfl
@[simp] theorem State.answered_fabric (s : State) (r : Request) (st : Status) (bs : List Byte) : (s.answered r st bs).fabric = s.fabric := rfl
@[simp] theorem State.answered_hold (s : State) (r : Request) (st : Status) (bs : List Byte) : (s.answered r st bs).hold = s.hold := rfl
@[simp] theorem State.answered_link (s : State) (r : Request) (st : Status) (bs : List Byte) : (s.answered r st bs).link = s.link.answer r (statusByte st :: bs) := rfl
@[simp] theorem State.answered_inColdReset (s : State) (r : Request) (st : Status) (bs : List Byte) : (s.answered r st bs).inColdReset = s.inColdReset := rfl
@[simp] theorem State.answered_resetRun (s : State) (r : Request) (st : Status) (bs : List Byte) : (s.answered r st bs).resetRun = s.resetRun := rfl
@[simp] theorem State.answered_script (s : State) (r : Request) (st : Status) (bs : List Byte) : (s.answered r st bs).script = s.script := rfl
@[simp] theorem State.answered_unscripted (s : State) (r : Request) (st : Status) (bs : List Byte) : (s.answered r st bs).unscripted = s.unscripted := rfl
@[simp] theorem State.answered_pending (s : State) (r : Request) (st : Status) (bs : List Byte) : (s.answered r st bs).pending = s.pending := rfl

/-! ### `State.exitHold` -/

@[simp] theorem State.exitHold_time (s : State) (w : HoldCause) : (s.exitHold w).time = s.time := rfl
@[simp] theorem State.exitHold_timebases (s : State) (w : HoldCause) : (s.exitHold w).timebases = s.timebases := rfl
@[simp] theorem State.exitHold_store (s : State) (w : HoldCause) : (s.exitHold w).store = s.store := rfl
@[simp] theorem State.exitHold_channels (s : State) (w : HoldCause) : (s.exitHold w).channels = s.channels := rfl
@[simp] theorem State.exitHold_pinTable (s : State) (w : HoldCause) : (s.exitHold w).pinTable = s.pinTable := rfl
@[simp] theorem State.exitHold_fabric (s : State) (w : HoldCause) : (s.exitHold w).fabric = s.fabric := rfl
@[simp] theorem State.exitHold_hold (s : State) (w : HoldCause) : (s.exitHold w).hold = s.hold := rfl
@[simp] theorem State.exitHold_link (s : State) (w : HoldCause) : (s.exitHold w).link = s.link.append (.hold false w s.time) := rfl
@[simp] theorem State.exitHold_inColdReset (s : State) (w : HoldCause) : (s.exitHold w).inColdReset = s.inColdReset := rfl
@[simp] theorem State.exitHold_resetRun (s : State) (w : HoldCause) : (s.exitHold w).resetRun = s.resetRun := rfl
@[simp] theorem State.exitHold_script (s : State) (w : HoldCause) : (s.exitHold w).script = s.script := rfl
@[simp] theorem State.exitHold_unscripted (s : State) (w : HoldCause) : (s.exitHold w).unscripted = s.unscripted := rfl
@[simp] theorem State.exitHold_pending (s : State) (w : HoldCause) : (s.exitHold w).pending = s.pending := rfl

/-! ### `State.placeDeliveries` -/

@[simp] theorem State.placeDeliveries_time (s : State) (l : LineId) : (s.placeDeliveries l).time = s.time := rfl
@[simp] theorem State.placeDeliveries_timebases (s : State) (l : LineId) : (s.placeDeliveries l).timebases = s.timebases := rfl
@[simp] theorem State.placeDeliveries_store (s : State) (l : LineId) : (s.placeDeliveries l).store = s.store := rfl
@[simp] theorem State.placeDeliveries_pinTable (s : State) (l : LineId) : (s.placeDeliveries l).pinTable = s.pinTable := rfl
@[simp] theorem State.placeDeliveries_fabric (s : State) (l : LineId) : (s.placeDeliveries l).fabric = s.fabric := rfl
@[simp] theorem State.placeDeliveries_hold (s : State) (l : LineId) : (s.placeDeliveries l).hold = s.hold := rfl
@[simp] theorem State.placeDeliveries_link (s : State) (l : LineId) : (s.placeDeliveries l).link = s.link := rfl
@[simp] theorem State.placeDeliveries_inColdReset (s : State) (l : LineId) : (s.placeDeliveries l).inColdReset = s.inColdReset := rfl
@[simp] theorem State.placeDeliveries_resetRun (s : State) (l : LineId) : (s.placeDeliveries l).resetRun = s.resetRun := rfl
@[simp] theorem State.placeDeliveries_script (s : State) (l : LineId) : (s.placeDeliveries l).script = s.script := rfl
@[simp] theorem State.placeDeliveries_unscripted (s : State) (l : LineId) : (s.placeDeliveries l).unscripted = s.unscripted := rfl
@[simp] theorem State.placeDeliveries_pending (s : State) (l : LineId) : (s.placeDeliveries l).pending = s.pending := rfl

/-! ### `State.freeChannel` -/

@[simp] theorem State.freeChannel_time (s : State) (ch : ChannelId) (c : Channel) : (s.freeChannel ch c).time = s.time := rfl
@[simp] theorem State.freeChannel_timebases (s : State) (ch : ChannelId) (c : Channel) : (s.freeChannel ch c).timebases = s.timebases := rfl
@[simp] theorem State.freeChannel_store (s : State) (ch : ChannelId) (c : Channel) : (s.freeChannel ch c).store = s.store.releaseRole c.role := rfl
@[simp] theorem State.freeChannel_channels (s : State) (ch : ChannelId) (c : Channel) : (s.freeChannel ch c).channels = s.channels.set ch none := rfl
@[simp] theorem State.freeChannel_pinTable (s : State) (ch : ChannelId) (c : Channel) : (s.freeChannel ch c).pinTable = s.pinTable.set c.pin none := rfl
@[simp] theorem State.freeChannel_fabric (s : State) (ch : ChannelId) (c : Channel) : (s.freeChannel ch c).fabric = s.fabric.without ch := rfl
@[simp] theorem State.freeChannel_hold (s : State) (ch : ChannelId) (c : Channel) : (s.freeChannel ch c).hold = s.hold := rfl
@[simp] theorem State.freeChannel_link (s : State) (ch : ChannelId) (c : Channel) : (s.freeChannel ch c).link = s.link := rfl
@[simp] theorem State.freeChannel_inColdReset (s : State) (ch : ChannelId) (c : Channel) : (s.freeChannel ch c).inColdReset = s.inColdReset := rfl
@[simp] theorem State.freeChannel_resetRun (s : State) (ch : ChannelId) (c : Channel) : (s.freeChannel ch c).resetRun = s.resetRun := rfl
@[simp] theorem State.freeChannel_script (s : State) (ch : ChannelId) (c : Channel) : (s.freeChannel ch c).script = s.script := rfl
@[simp] theorem State.freeChannel_unscripted (s : State) (ch : ChannelId) (c : Channel) : (s.freeChannel ch c).unscripted = s.unscripted := rfl
@[simp] theorem State.freeChannel_pending (s : State) (ch : ChannelId) (c : Channel) : (s.freeChannel ch c).pending = s.pending := rfl

/-! ### `State.warmReset` -/

@[simp] theorem State.warmReset_time (s : State) : s.warmReset.time = s.time := rfl
@[simp] theorem State.warmReset_timebases (s : State) : s.warmReset.timebases = Vector.ofFn s.resetTimebase := rfl
@[simp] theorem State.warmReset_store (s : State) : s.warmReset.store = PatternStore.empty := rfl
@[simp] theorem State.warmReset_channels (s : State) : s.warmReset.channels = Vector.ofFn fun ch : ChannelId => resetChannel s.time s.channels[ch] := rfl
@[simp] theorem State.warmReset_pinTable (s : State) : s.warmReset.pinTable = Vector.ofFn s.resetPin := rfl
@[simp] theorem State.warmReset_fabric (s : State) : s.warmReset.fabric = s.resetFabric := rfl
@[simp] theorem State.warmReset_hold (s : State) : s.warmReset.hold = { s.hold with request := false } := rfl
@[simp] theorem State.warmReset_link (s : State) : s.warmReset.link = s.link.warmReset := rfl
@[simp] theorem State.warmReset_inColdReset (s : State) : s.warmReset.inColdReset = s.inColdReset := rfl
@[simp] theorem State.warmReset_resetRun (s : State) : s.warmReset.resetRun = s.resetRun := rfl
@[simp] theorem State.warmReset_script (s : State) : s.warmReset.script = s.script := rfl
@[simp] theorem State.warmReset_unscripted (s : State) : s.warmReset.unscripted = s.unscripted := rfl
@[simp] theorem State.warmReset_pending (s : State) : s.warmReset.pending = s.pending := rfl

/-! ### `State.advanceClock` -/

@[simp] theorem State.advanceClock_time (s : State) : s.advanceClock.time = s.time + 1 := rfl
@[simp] theorem State.advanceClock_timebases (s : State) : s.advanceClock.timebases = Vector.ofFn fun t : TimebaseId => s.timebases[t].advance := rfl
@[simp] theorem State.advanceClock_store (s : State) : s.advanceClock.store = s.store := rfl
@[simp] theorem State.advanceClock_channels (s : State) : s.advanceClock.channels = s.channels := rfl
@[simp] theorem State.advanceClock_pinTable (s : State) : s.advanceClock.pinTable = s.pinTable := rfl
@[simp] theorem State.advanceClock_fabric (s : State) : s.advanceClock.fabric = s.fabric := rfl
@[simp] theorem State.advanceClock_hold (s : State) : s.advanceClock.hold = s.hold := rfl
@[simp] theorem State.advanceClock_link (s : State) : s.advanceClock.link = s.link := rfl
@[simp] theorem State.advanceClock_inColdReset (s : State) : s.advanceClock.inColdReset = s.inColdReset := rfl
@[simp] theorem State.advanceClock_resetRun (s : State) : s.advanceClock.resetRun = s.resetRun := rfl
@[simp] theorem State.advanceClock_script (s : State) : s.advanceClock.script = s.script := rfl
@[simp] theorem State.advanceClock_unscripted (s : State) : s.advanceClock.unscripted = s.unscripted := rfl
@[simp] theorem State.advanceClock_pending (s : State) : s.advanceClock.pending = s.pending := rfl

/-! ### `Link.enterReplay` -/

@[simp] theorem Link.enterReplay_receiver (k : Link) (e : ReplayEntry) : (k.enterReplay e).receiver = k.receiver := rfl
@[simp] theorem Link.enterReplay_gapTimer (k : Link) (e : ReplayEntry) : (k.enterReplay e).gapTimer = k.gapTimer := rfl
@[simp] theorem Link.enterReplay_sampler (k : Link) (e : ReplayEntry) : (k.enterReplay e).sampler = k.sampler := rfl
@[simp] theorem Link.enterReplay_lowRun (k : Link) (e : ReplayEntry) : (k.enterReplay e).lowRun = k.lowRun := rfl
@[simp] theorem Link.enterReplay_requests (k : Link) (e : ReplayEntry) : (k.enterReplay e).requests = k.requests := rfl
@[simp] theorem Link.enterReplay_replies (k : Link) (e : ReplayEntry) : (k.enterReplay e).replies = k.replies := rfl
@[simp] theorem Link.enterReplay_replay (k : Link) (e : ReplayEntry) : (k.enterReplay e).replay = (if k.replay.length < Config.replaySlots then k.replay else k.replay.tail) ++ [e] := rfl
@[simp] theorem Link.enterReplay_reports (k : Link) (e : ReplayEntry) : (k.enterReplay e).reports = k.reports := rfl
@[simp] theorem Link.enterReplay_gapDue (k : Link) (e : ReplayEntry) : (k.enterReplay e).gapDue = k.gapDue := rfl
@[simp] theorem Link.enterReplay_credit (k : Link) (e : ReplayEntry) : (k.enterReplay e).credit = k.credit := rfl
@[simp] theorem Link.enterReplay_lost (k : Link) (e : ReplayEntry) : (k.enterReplay e).lost = k.lost := rfl
@[simp] theorem Link.enterReplay_nextSeq (k : Link) (e : ReplayEntry) : (k.enterReplay e).nextSeq = k.nextSeq := rfl
@[simp] theorem Link.enterReplay_transmission (k : Link) (e : ReplayEntry) : (k.enterReplay e).transmission = k.transmission := rfl

/-! ### `Link.answer` -/

@[simp] theorem Link.answer_receiver (k : Link) (r : Request) (b : List Byte) : (k.answer r b).receiver = k.receiver := rfl
@[simp] theorem Link.answer_gapTimer (k : Link) (r : Request) (b : List Byte) : (k.answer r b).gapTimer = k.gapTimer := rfl
@[simp] theorem Link.answer_sampler (k : Link) (r : Request) (b : List Byte) : (k.answer r b).sampler = k.sampler := rfl
@[simp] theorem Link.answer_lowRun (k : Link) (r : Request) (b : List Byte) : (k.answer r b).lowRun = k.lowRun := rfl
@[simp] theorem Link.answer_requests (k : Link) (r : Request) (b : List Byte) : (k.answer r b).requests = k.requests := rfl
@[simp] theorem Link.answer_replies (k : Link) (r : Request) (b : List Byte) : (k.answer r b).replies = k.replies ++ [replyFrame r b] := rfl
@[simp] theorem Link.answer_replay (k : Link) (r : Request) (b : List Byte) : (k.answer r b).replay = (if k.replay.length < Config.replaySlots then k.replay else k.replay.tail) ++ [⟨r.tag, r.crc, replyFrame r b⟩] := rfl
@[simp] theorem Link.answer_reports (k : Link) (r : Request) (b : List Byte) : (k.answer r b).reports = k.reports := rfl
@[simp] theorem Link.answer_gapDue (k : Link) (r : Request) (b : List Byte) : (k.answer r b).gapDue = k.gapDue := rfl
@[simp] theorem Link.answer_credit (k : Link) (r : Request) (b : List Byte) : (k.answer r b).credit = k.credit := rfl
@[simp] theorem Link.answer_lost (k : Link) (r : Request) (b : List Byte) : (k.answer r b).lost = k.lost := rfl
@[simp] theorem Link.answer_nextSeq (k : Link) (r : Request) (b : List Byte) : (k.answer r b).nextSeq = k.nextSeq := rfl
@[simp] theorem Link.answer_transmission (k : Link) (r : Request) (b : List Byte) : (k.answer r b).transmission = k.transmission := rfl

/-! ### `Link.send` -/

@[simp] theorem Link.send_receiver (k : Link) (f : Frame) : (k.send f).receiver = k.receiver := rfl
@[simp] theorem Link.send_gapTimer (k : Link) (f : Frame) : (k.send f).gapTimer = k.gapTimer := rfl
@[simp] theorem Link.send_sampler (k : Link) (f : Frame) : (k.send f).sampler = k.sampler := rfl
@[simp] theorem Link.send_lowRun (k : Link) (f : Frame) : (k.send f).lowRun = k.lowRun := rfl
@[simp] theorem Link.send_requests (k : Link) (f : Frame) : (k.send f).requests = k.requests := rfl
@[simp] theorem Link.send_replies (k : Link) (f : Frame) : (k.send f).replies = k.replies := rfl
@[simp] theorem Link.send_replay (k : Link) (f : Frame) : (k.send f).replay = k.replay := rfl
@[simp] theorem Link.send_reports (k : Link) (f : Frame) : (k.send f).reports = k.reports := rfl
@[simp] theorem Link.send_gapDue (k : Link) (f : Frame) : (k.send f).gapDue = k.gapDue := rfl
@[simp] theorem Link.send_credit (k : Link) (f : Frame) : (k.send f).credit = k.credit := rfl
@[simp] theorem Link.send_lost (k : Link) (f : Frame) : (k.send f).lost = k.lost := rfl
@[simp] theorem Link.send_nextSeq (k : Link) (f : Frame) : (k.send f).nextSeq = k.nextSeq := rfl
@[simp] theorem Link.send_transmission (k : Link) (f : Frame) : (k.send f).transmission = some ⟨f.bytes, 0⟩ := rfl

/-! ### `Link.resetLink` -/

@[simp] theorem Link.resetLink_receiver (k : Link) : k.resetLink.receiver = .hunting := rfl
@[simp] theorem Link.resetLink_gapTimer (k : Link) : k.resetLink.gapTimer = 0 := rfl
@[simp] theorem Link.resetLink_sampler (k : Link) : k.resetLink.sampler = k.sampler := rfl
@[simp] theorem Link.resetLink_lowRun (k : Link) : k.resetLink.lowRun = k.lowRun := rfl
@[simp] theorem Link.resetLink_requests (k : Link) : k.resetLink.requests = [] := rfl
@[simp] theorem Link.resetLink_replies (k : Link) : k.resetLink.replies = [] := rfl
@[simp] theorem Link.resetLink_replay (k : Link) : k.resetLink.replay = [] := rfl
@[simp] theorem Link.resetLink_reports (k : Link) : k.resetLink.reports = k.reports := rfl
@[simp] theorem Link.resetLink_gapDue (k : Link) : k.resetLink.gapDue = k.gapDue := rfl
@[simp] theorem Link.resetLink_credit (k : Link) : k.resetLink.credit = 0 := rfl
@[simp] theorem Link.resetLink_lost (k : Link) : k.resetLink.lost = k.lost := rfl
@[simp] theorem Link.resetLink_nextSeq (k : Link) : k.resetLink.nextSeq = k.nextSeq := rfl
@[simp] theorem Link.resetLink_transmission (k : Link) : k.resetLink.transmission = k.transmission := rfl

/-! ### `Link.warmReset` -/

@[simp] theorem Link.warmReset_receiver (k : Link) : k.warmReset.receiver = k.receiver := rfl
@[simp] theorem Link.warmReset_gapTimer (k : Link) : k.warmReset.gapTimer = k.gapTimer := rfl
@[simp] theorem Link.warmReset_sampler (k : Link) : k.warmReset.sampler = k.sampler := rfl
@[simp] theorem Link.warmReset_lowRun (k : Link) : k.warmReset.lowRun = k.lowRun := rfl
@[simp] theorem Link.warmReset_requests (k : Link) : k.warmReset.requests = [] := rfl
@[simp] theorem Link.warmReset_replies (k : Link) : k.warmReset.replies = k.replies := rfl
@[simp] theorem Link.warmReset_replay (k : Link) : k.warmReset.replay = [] := rfl
@[simp] theorem Link.warmReset_reports (k : Link) : k.warmReset.reports = [] := rfl
@[simp] theorem Link.warmReset_gapDue (k : Link) : k.warmReset.gapDue = false := rfl
@[simp] theorem Link.warmReset_credit (k : Link) : k.warmReset.credit = 0 := rfl
@[simp] theorem Link.warmReset_lost (k : Link) : k.warmReset.lost = 0 := rfl
@[simp] theorem Link.warmReset_nextSeq (k : Link) : k.warmReset.nextSeq = 0 := rfl
@[simp] theorem Link.warmReset_transmission (k : Link) : k.warmReset.transmission = k.transmission := rfl

/-! ### Pattern store -/

@[simp] theorem PatternStore.retain_free (t : PatternStore) (p : PatternId) : (t.retain p).free = t.free := rfl
@[simp] theorem PatternStore.retain_defined (t : PatternStore) (p : PatternId) : (t.retain p).defined = t.defined := rfl
@[simp] theorem PatternStore.release_free (t : PatternStore) (p : PatternId) : (t.release p).free = t.free := rfl
@[simp] theorem PatternStore.release_defined (t : PatternStore) (p : PatternId) : (t.release p).defined = t.defined := rfl

/-! ### `Channel.halt` -/

@[simp] theorem Channel.halt_activity (c : Channel) (r : HaltReason) : (c.halt r).activity = .halted := rfl
@[simp] theorem Channel.halt_pin (c : Channel) (r : HaltReason) : (c.halt r).pin = c.pin := rfl
@[simp] theorem Channel.halt_timebase (c : Channel) (r : HaltReason) : (c.halt r).timebase = c.timebase := rfl
@[simp] theorem Channel.halt_frozen (c : Channel) (r : HaltReason) : (c.halt r).frozen = c.frozen := rfl
@[simp] theorem Channel.halt_startCondition (c : Channel) (r : HaltReason) : (c.halt r).startCondition = c.startCondition := rfl
@[simp] theorem Channel.halt_rearm (c : Channel) (r : HaltReason) : (c.halt r).rearm = c.rearm := rfl
@[simp] theorem Channel.halt_haltReason (c : Channel) (r : HaltReason) : (c.halt r).haltReason = r := rfl
@[simp] theorem Channel.halt_deliveries (c : Channel) (r : HaltReason) : (c.halt r).deliveries = c.deliveries := rfl
@[simp] theorem Channel.halt_role (c : Channel) (r : HaltReason) : (c.halt r).role = c.role.cut := rfl

/-! ### `Channel.undeliver` -/

@[simp] theorem Channel.undeliver_activity (c : Channel) (l : LineId) : (c.undeliver l).activity = c.activity := rfl
@[simp] theorem Channel.undeliver_pin (c : Channel) (l : LineId) : (c.undeliver l).pin = c.pin := rfl
@[simp] theorem Channel.undeliver_timebase (c : Channel) (l : LineId) : (c.undeliver l).timebase = c.timebase := rfl
@[simp] theorem Channel.undeliver_frozen (c : Channel) (l : LineId) : (c.undeliver l).frozen = c.frozen := rfl
@[simp] theorem Channel.undeliver_startCondition (c : Channel) (l : LineId) : (c.undeliver l).startCondition = c.startCondition := rfl
@[simp] theorem Channel.undeliver_rearm (c : Channel) (l : LineId) : (c.undeliver l).rearm = c.rearm := rfl
@[simp] theorem Channel.undeliver_haltReason (c : Channel) (l : LineId) : (c.undeliver l).haltReason = c.haltReason := rfl
@[simp] theorem Channel.undeliver_deliveries (c : Channel) (l : LineId) : (c.undeliver l).deliveries = c.deliveries.set l none := rfl
@[simp] theorem Channel.undeliver_role (c : Channel) (l : LineId) : (c.undeliver l).role = c.role := rfl

/-! ### `Channel.cleared` -/

@[simp] theorem Channel.cleared_activity (c : Channel) (t : Time) : (c.cleared t).activity = .idle := rfl
@[simp] theorem Channel.cleared_pin (c : Channel) (t : Time) : (c.cleared t).pin = c.pin := rfl
@[simp] theorem Channel.cleared_timebase (c : Channel) (t : Time) : (c.cleared t).timebase = c.timebase := rfl
@[simp] theorem Channel.cleared_frozen (c : Channel) (t : Time) : (c.cleared t).frozen = c.frozen := rfl
@[simp] theorem Channel.cleared_startCondition (c : Channel) (t : Time) : (c.cleared t).startCondition = .next t := rfl
@[simp] theorem Channel.cleared_rearm (c : Channel) (t : Time) : (c.cleared t).rearm = false := rfl
@[simp] theorem Channel.cleared_haltReason (c : Channel) (t : Time) : (c.cleared t).haltReason = .none := rfl
@[simp] theorem Channel.cleared_deliveries (c : Channel) (t : Time) : (c.cleared t).deliveries = Vector.replicate 8 none := rfl
@[simp] theorem Channel.cleared_role (c : Channel) (t : Time) : (c.cleared t).role = c.role.cleared := rfl

/-! ### `Channel.started` -/

@[simp] theorem Channel.started_activity (c : Channel) (f : StartFields) (r : Role) : (c.started f r).activity = .waiting := rfl
@[simp] theorem Channel.started_pin (c : Channel) (f : StartFields) (r : Role) : (c.started f r).pin = c.pin := rfl
@[simp] theorem Channel.started_timebase (c : Channel) (f : StartFields) (r : Role) : (c.started f r).timebase = c.timebase := rfl
@[simp] theorem Channel.started_frozen (c : Channel) (f : StartFields) (r : Role) : (c.started f r).frozen = c.frozen := rfl
@[simp] theorem Channel.started_startCondition (c : Channel) (f : StartFields) (r : Role) : (c.started f r).startCondition = f.condition := rfl
@[simp] theorem Channel.started_rearm (c : Channel) (f : StartFields) (r : Role) : (c.started f r).rearm = f.rearm := rfl
@[simp] theorem Channel.started_haltReason (c : Channel) (f : StartFields) (r : Role) : (c.started f r).haltReason = .none := rfl
@[simp] theorem Channel.started_deliveries (c : Channel) (f : StartFields) (r : Role) : (c.started f r).deliveries = c.deliveries := rfl
@[simp] theorem Channel.started_role (c : Channel) (f : StartFields) (r : Role) : (c.started f r).role = r := rfl

/-! ### `Channel.place` -/

@[simp] theorem Channel.place_activity (c : Channel) (l : LineId) (a : Action) (t : Time) : (c.place l a t).activity = c.activity := rfl
@[simp] theorem Channel.place_pin (c : Channel) (l : LineId) (a : Action) (t : Time) : (c.place l a t).pin = c.pin := rfl
@[simp] theorem Channel.place_timebase (c : Channel) (l : LineId) (a : Action) (t : Time) : (c.place l a t).timebase = c.timebase := rfl
@[simp] theorem Channel.place_frozen (c : Channel) (l : LineId) (a : Action) (t : Time) : (c.place l a t).frozen = c.frozen := rfl
@[simp] theorem Channel.place_startCondition (c : Channel) (l : LineId) (a : Action) (t : Time) : (c.place l a t).startCondition = c.startCondition := rfl
@[simp] theorem Channel.place_rearm (c : Channel) (l : LineId) (a : Action) (t : Time) : (c.place l a t).rearm = c.rearm := rfl
@[simp] theorem Channel.place_haltReason (c : Channel) (l : LineId) (a : Action) (t : Time) : (c.place l a t).haltReason = c.haltReason := rfl
@[simp] theorem Channel.place_role (c : Channel) (l : LineId) (a : Action) (t : Time) : (c.place l a t).role = c.role := rfl

/-! ### `Channel.limitReached` -/

@[simp] theorem Channel.limitReached_activity (c : Channel) : c.limitReached.activity = .done := rfl
@[simp] theorem Channel.limitReached_pin (c : Channel) : c.limitReached.pin = c.pin := rfl
@[simp] theorem Channel.limitReached_timebase (c : Channel) : c.limitReached.timebase = c.timebase := rfl
@[simp] theorem Channel.limitReached_frozen (c : Channel) : c.limitReached.frozen = c.frozen := rfl
@[simp] theorem Channel.limitReached_startCondition (c : Channel) : c.limitReached.startCondition = c.startCondition := rfl
@[simp] theorem Channel.limitReached_rearm (c : Channel) : c.limitReached.rearm = c.rearm := rfl
@[simp] theorem Channel.limitReached_haltReason (c : Channel) : c.limitReached.haltReason = c.haltReason := rfl
@[simp] theorem Channel.limitReached_deliveries (c : Channel) : c.limitReached.deliveries = c.deliveries := rfl
@[simp] theorem Channel.limitReached_role (c : Channel) : c.limitReached.role = c.role.cut := rfl

/-! ### `State.withPinHold` -/

@[simp] theorem State.withPinHold_time (s : State) (p : PinHold) : (s.withPinHold p).time = s.time := rfl
@[simp] theorem State.withPinHold_timebases (s : State) (p : PinHold) : (s.withPinHold p).timebases = s.timebases := rfl
@[simp] theorem State.withPinHold_store (s : State) (p : PinHold) : (s.withPinHold p).store = s.store := rfl
@[simp] theorem State.withPinHold_channels (s : State) (p : PinHold) : (s.withPinHold p).channels = s.channels := rfl
@[simp] theorem State.withPinHold_pinTable (s : State) (p : PinHold) : (s.withPinHold p).pinTable = s.pinTable := rfl
@[simp] theorem State.withPinHold_fabric (s : State) (p : PinHold) : (s.withPinHold p).fabric = s.fabric := rfl
@[simp] theorem State.withPinHold_hold (s : State) (p : PinHold) : (s.withPinHold p).hold = { s.hold with pinHold := p, runCount := 0 } := rfl
@[simp] theorem State.withPinHold_link (s : State) (p : PinHold) : (s.withPinHold p).link = s.link := rfl
@[simp] theorem State.withPinHold_inColdReset (s : State) (p : PinHold) : (s.withPinHold p).inColdReset = s.inColdReset := rfl
@[simp] theorem State.withPinHold_resetRun (s : State) (p : PinHold) : (s.withPinHold p).resetRun = s.resetRun := rfl
@[simp] theorem State.withPinHold_script (s : State) (p : PinHold) : (s.withPinHold p).script = s.script := rfl
@[simp] theorem State.withPinHold_unscripted (s : State) (p : PinHold) : (s.withPinHold p).unscripted = s.unscripted := rfl
@[simp] theorem State.withPinHold_pending (s : State) (p : PinHold) : (s.withPinHold p).pending = s.pending := rfl

/-! ### `State.withHoldFlag` -/

@[simp] theorem State.withHoldFlag_time (s : State) (b : Bool) : (s.withHoldFlag b).time = s.time := rfl
@[simp] theorem State.withHoldFlag_timebases (s : State) (b : Bool) : (s.withHoldFlag b).timebases = s.timebases := rfl
@[simp] theorem State.withHoldFlag_store (s : State) (b : Bool) : (s.withHoldFlag b).store = s.store := rfl
@[simp] theorem State.withHoldFlag_channels (s : State) (b : Bool) : (s.withHoldFlag b).channels = s.channels := rfl
@[simp] theorem State.withHoldFlag_pinTable (s : State) (b : Bool) : (s.withHoldFlag b).pinTable = s.pinTable := rfl
@[simp] theorem State.withHoldFlag_fabric (s : State) (b : Bool) : (s.withHoldFlag b).fabric = s.fabric := rfl
@[simp] theorem State.withHoldFlag_hold (s : State) (b : Bool) : (s.withHoldFlag b).hold = { s.hold with request := b } := rfl
@[simp] theorem State.withHoldFlag_link (s : State) (b : Bool) : (s.withHoldFlag b).link = s.link := rfl
@[simp] theorem State.withHoldFlag_inColdReset (s : State) (b : Bool) : (s.withHoldFlag b).inColdReset = s.inColdReset := rfl
@[simp] theorem State.withHoldFlag_resetRun (s : State) (b : Bool) : (s.withHoldFlag b).resetRun = s.resetRun := rfl
@[simp] theorem State.withHoldFlag_script (s : State) (b : Bool) : (s.withHoldFlag b).script = s.script := rfl
@[simp] theorem State.withHoldFlag_unscripted (s : State) (b : Bool) : (s.withHoldFlag b).unscripted = s.unscripted := rfl
@[simp] theorem State.withHoldFlag_pending (s : State) (b : Bool) : (s.withHoldFlag b).pending = s.pending := rfl

end Sys2Proof.Machine
end

