-- ==== Sys2Proof/Laws/Ops.lean ====
section
/-! SUPPORT. One lemma for each shared operation that says what it can do, so that proofs cite it instead of unfolding it. -/

namespace Sys2Proof.Machine

/-! ### Tables by identifier -/

theorem getElem_set_fin {α : Type} {n : Nat} (v : Vector α n) (i j : Fin n) (x : α) :
    (v.set i x)[j] = if i = j then x else v[j] := by
  simp only [Fin.getElem_fin, Vector.getElem_set, Fin.val_inj]

theorem getElem_set_self_fin {α : Type} {n : Nat} (v : Vector α n) (i : Fin n) (x : α) :
    (v.set i x)[i] = x := by simp

theorem getElem_ofFn_fin {α : Type} {n : Nat} (f : Fin n → α) (i : Fin n) : (Vector.ofFn f)[i] = f i := by simp

/-! ### Report queue -/

/-- R154: a report joins the queue with the next sequence number, or is lost and counted. -/
theorem Link.append_cases (k : Link) (b : ReportBody) :
    (k.reports.length < Config.reportSlots ∧
      k.append b = { k with reports := k.reports ++ [{ seq := k.nextSeq, body := b }], nextSeq := k.nextSeq + 1 }) ∨
    (Config.reportSlots ≤ k.reports.length ∧ k.append b = { k with lost := countUp k.lost }) := by
  unfold Link.append
  split
  · exact .inl ⟨‹_›, rfl⟩
  · exact .inr ⟨by omega, rfl⟩

/-- R155: the GAP is appended into room and the lost count returns to 0, or nothing happens. -/
theorem Link.appendGap_cases (k : Link) :
    (0 < k.lost ∧ k.reports.length < Config.reportSlots ∧
      k.appendGap = { k with reports := k.reports ++ [{ seq := k.nextSeq, body := .gap k.lost }],
                             nextSeq := k.nextSeq + 1, lost := 0 }) ∨
    ((k.lost = 0 ∨ Config.reportSlots ≤ k.reports.length) ∧ k.appendGap = k) := by
  unfold Link.appendGap
  split
  · exact .inl ⟨‹_ ∧ _›.1, ‹_ ∧ _›.2, rfl⟩
  · exact .inr ⟨by omega, rfl⟩

@[simp] theorem Link.append_receiver (k : Link) (b : ReportBody) : (k.append b).receiver = k.receiver := by
  unfold Link.append; split <;> rfl
@[simp] theorem Link.append_gapTimer (k : Link) (b : ReportBody) : (k.append b).gapTimer = k.gapTimer := by
  unfold Link.append; split <;> rfl
@[simp] theorem Link.append_sampler (k : Link) (b : ReportBody) : (k.append b).sampler = k.sampler := by
  unfold Link.append; split <;> rfl
@[simp] theorem Link.append_lowRun (k : Link) (b : ReportBody) : (k.append b).lowRun = k.lowRun := by
  unfold Link.append; split <;> rfl
@[simp] theorem Link.append_requests (k : Link) (b : ReportBody) : (k.append b).requests = k.requests := by
  unfold Link.append; split <;> rfl
@[simp] theorem Link.append_replies (k : Link) (b : ReportBody) : (k.append b).replies = k.replies := by
  unfold Link.append; split <;> rfl
@[simp] theorem Link.append_replay (k : Link) (b : ReportBody) : (k.append b).replay = k.replay := by
  unfold Link.append; split <;> rfl
@[simp] theorem Link.append_gapDue (k : Link) (b : ReportBody) : (k.append b).gapDue = k.gapDue := by
  unfold Link.append; split <;> rfl
@[simp] theorem Link.append_credit (k : Link) (b : ReportBody) : (k.append b).credit = k.credit := by
  unfold Link.append; split <;> rfl
@[simp] theorem Link.append_transmission (k : Link) (b : ReportBody) : (k.append b).transmission = k.transmission := by
  unfold Link.append; split <;> rfl

/-- `k'` is `k` after some reports were raised. -/
def Link.Reported (k k' : Link) : Prop := ∃ bs : List ReportBody, k' = bs.foldl Link.append k

theorem Link.Reported.refl (k : Link) : k.Reported k := ⟨[], rfl⟩

theorem Link.Reported.append {k k' : Link} (h : k.Reported k') (b : ReportBody) : k.Reported (k'.append b) := by
  obtain ⟨bs, rfl⟩ := h
  exact ⟨bs ++ [b], by simp⟩

theorem Link.Reported.trans {a b c : Link} (h : a.Reported b) (g : b.Reported c) : a.Reported c := by
  obtain ⟨bs, rfl⟩ := h
  obtain ⟨cs, rfl⟩ := g
  exact ⟨bs ++ cs, by simp⟩

/-- A property that every report keeps is kept by any number of them. -/
theorem Link.Reported.keeps {P : Link → Prop} (hP : ∀ k b, P k → P (k.append b)) {k k' : Link} (h : k.Reported k')
    (hk : P k) : P k' := by
  obtain ⟨bs, rfl⟩ := h
  induction bs generalizing k with
  | nil => exact hk
  | cons b bs ih => exact ih (hP k b hk)

/-! ### References to patterns -/

theorem PatternStore.retain_users (t : PatternStore) (p q : PatternId) :
    (t.retain p).rows[q].users = if p = q then t.rows[q].users + 1 else t.rows[q].users := by
  simp only [PatternStore.retain, getElem_set_fin]
  split <;> simp_all

theorem PatternStore.release_users (t : PatternStore) (p q : PatternId) :
    (t.release p).rows[q].users = if p = q then t.rows[q].users - 1 else t.rows[q].users := by
  simp only [PatternStore.release, getElem_set_fin]
  split <;> simp_all

@[simp] theorem PatternStore.retain_pattern (t : PatternStore) (p : PatternId) (q : Nat) (h : q < 32) :
    (t.retain p).rows[q].pattern = t.rows[q].pattern := by
  simp only [PatternStore.retain, Vector.getElem_set]
  split <;> simp_all

@[simp] theorem PatternStore.release_pattern (t : PatternStore) (p : PatternId) (q : Nat) (h : q < 32) :
    (t.release p).rows[q].pattern = t.rows[q].pattern := by
  simp only [PatternStore.release, Vector.getElem_set]
  split <;> simp_all

@[simp] theorem PatternStore.releaseField_free (t : PatternStore) (f : Option PatternId) :
    (t.releaseField f).free = t.free := by cases f <;> rfl
@[simp] theorem PatternStore.releaseField_defined (t : PatternStore) (f : Option PatternId) :
    (t.releaseField f).defined = t.defined := by cases f <;> rfl
@[simp] theorem PatternStore.releaseField_pattern (t : PatternStore) (f : Option PatternId) (q : Nat) (h : q < 32) :
    (t.releaseField f).rows[q].pattern = t.rows[q].pattern := by
  cases f
  · rfl
  · exact t.release_pattern _ q h

/-- R16: releasing a field lowers the count of the row it names. -/
theorem PatternStore.releaseField_users (t : PatternStore) (f : Option PatternId) (q : PatternId) :
    (t.releaseField f).rows[q].users = t.rows[q].users - fieldRefs f q := by
  cases f with
  | none => simp [PatternStore.releaseField, fieldRefs]
  | some p =>
    rw [PatternStore.releaseField, t.release_users, fieldRefs]
    by_cases h : p = q <;> simp [h]

@[simp] theorem PatternStore.releaseRole_free (t : PatternStore) (r : Role) : (t.releaseRole r).free = t.free := by
  cases r <;> simp [PatternStore.releaseRole]
@[simp] theorem PatternStore.releaseRole_defined (t : PatternStore) (r : Role) : (t.releaseRole r).defined = t.defined := by
  cases r <;> simp [PatternStore.releaseRole]
@[simp] theorem PatternStore.releaseRole_pattern (t : PatternStore) (r : Role) (q : Nat) (h : q < 32) :
    (t.releaseRole r).rows[q].pattern = t.rows[q].pattern := by
  cases r <;> simp only [PatternStore.releaseRole, PatternStore.releaseField_pattern]

/-- R16: releasing a channel's references lowers each row's count by the references to it. -/
theorem PatternStore.releaseRole_users (t : PatternStore) (r : Role) (q : PatternId) :
    (t.releaseRole r).rows[q].users = t.rows[q].users - r.refs q := by
  cases r <;> simp only [PatternStore.releaseRole, PatternStore.releaseField_users, Role.refs] <;> omega

/-! ### Channel records -/

theorem State.updateChannel_eq_of_some {s : State} {ch : ChannelId} {c : Channel} (h : s.channels[ch] = some c)
    (f : Channel → Channel) : s.updateChannel ch f = s.setChannel ch (some (f c)) := by
  rw [State.updateChannel, h]

theorem State.updateChannel_eq_of_none {s : State} {ch : ChannelId} (h : s.channels[ch] = none)
    (f : Channel → Channel) : s.updateChannel ch f = s := by
  rw [State.updateChannel, h]

theorem State.setChannel_getElem (s : State) (ch x : ChannelId) (c : Option Channel) :
    (s.setChannel ch c).channels[x] = if ch = x then c else s.channels[x] := getElem_set_fin ..

/-- The record of a channel read in the output role. -/
theorem State.outputChannel_eq_some {s : State} {ch : ChannelId} {c : Channel} {o : OutputRole} :
    s.outputChannel ch = some (c, o) ↔ s.channels[ch] = some c ∧ c.role = .output o := by
  unfold State.outputChannel
  constructor
  · intro h
    split at h
    · cases h
    · split at h
      · cases h; exact ⟨‹_›, ‹_›⟩
      · cases h
  · rintro ⟨h, g⟩
    simp [h, g]

/-- The record of a channel read in the input role. -/
theorem State.inputChannel_eq_some {s : State} {ch : ChannelId} {c : Channel} {i : InputRole} :
    s.inputChannel ch = some (c, i) ↔ s.channels[ch] = some c ∧ c.role = .input i := by
  unfold State.inputChannel
  constructor
  · intro h
    split at h
    · cases h
    · split at h
      · cases h
      · cases h; exact ⟨‹_›, ‹_›⟩
  · rintro ⟨h, g⟩
    simp [h, g]

/-! ### Event fabric -/

/-- One line carries an event by a report and placements, or leaves the state alone (R114). -/
theorem State.carry_cases (s : State) (ch : ChannelId) (k : EventKind) (l : LineId) :
    s.carry ch k l = s ∨ s.carry ch k l = s.placeDeliveries l ∨
      s.carry ch k l = (s.report (.line l ch k s.time)).placeDeliveries l := by
  unfold State.carry
  split
  · exact .inl rfl
  · split
    · split
      · exact .inr (.inr rfl)
      · exact .inr (.inl rfl)
    · exact .inl rfl

/-- A property that LINE reports and placements keep is kept when an event is raised. -/
theorem State.raise_keeps {P : State → Prop} (hr : ∀ s b, P s → P (s.report b))
    (hp : ∀ s l, P s → P (s.placeDeliveries l)) {s : State} (ch : ChannelId) (k : EventKind) (h : P s) :
    P (s.raise ch k) := by
  have one : ∀ s l, P s → P (s.carry ch k l) := by
    intro s l h
    rcases s.carry_cases ch k l with e | e | e <;> rw [e]
    · exact h
    · exact hp _ _ h
    · exact hp _ _ (hr _ _ h)
  unfold State.raise
  generalize lines = ls
  induction ls generalizing s with
  | nil => exact h
  | cons l ls ih => exact ih (one s l h)

@[simp] theorem State.raise_time (s : State) (ch : ChannelId) (k : EventKind) : (s.raise ch k).time = s.time :=
  State.raise_keeps (P := fun t => t.time = s.time) (fun _ _ h => h) (fun _ _ h => h) ch k rfl
@[simp] theorem State.raise_timebases (s : State) (ch : ChannelId) (k : EventKind) :
    (s.raise ch k).timebases = s.timebases :=
  State.raise_keeps (P := fun t => t.timebases = s.timebases) (fun _ _ h => h) (fun _ _ h => h) ch k rfl
@[simp] theorem State.raise_store (s : State) (ch : ChannelId) (k : EventKind) : (s.raise ch k).store = s.store :=
  State.raise_keeps (P := fun t => t.store = s.store) (fun _ _ h => h) (fun _ _ h => h) ch k rfl
@[simp] theorem State.raise_pinTable (s : State) (ch : ChannelId) (k : EventKind) :
    (s.raise ch k).pinTable = s.pinTable :=
  State.raise_keeps (P := fun t => t.pinTable = s.pinTable) (fun _ _ h => h) (fun _ _ h => h) ch k rfl
@[simp] theorem State.raise_fabric (s : State) (ch : ChannelId) (k : EventKind) : (s.raise ch k).fabric = s.fabric :=
  State.raise_keeps (P := fun t => t.fabric = s.fabric) (fun _ _ h => h) (fun _ _ h => h) ch k rfl
@[simp] theorem State.raise_hold (s : State) (ch : ChannelId) (k : EventKind) : (s.raise ch k).hold = s.hold :=
  State.raise_keeps (P := fun t => t.hold = s.hold) (fun _ _ h => h) (fun _ _ h => h) ch k rfl
@[simp] theorem State.raise_inColdReset (s : State) (ch : ChannelId) (k : EventKind) :
    (s.raise ch k).inColdReset = s.inColdReset :=
  State.raise_keeps (P := fun t => t.inColdReset = s.inColdReset) (fun _ _ h => h) (fun _ _ h => h) ch k rfl
@[simp] theorem State.raise_resetRun (s : State) (ch : ChannelId) (k : EventKind) :
    (s.raise ch k).resetRun = s.resetRun :=
  State.raise_keeps (P := fun t => t.resetRun = s.resetRun) (fun _ _ h => h) (fun _ _ h => h) ch k rfl
@[simp] theorem State.raise_script (s : State) (ch : ChannelId) (k : EventKind) : (s.raise ch k).script = s.script :=
  State.raise_keeps (P := fun t => t.script = s.script) (fun _ _ h => h) (fun _ _ h => h) ch k rfl
@[simp] theorem State.raise_unscripted (s : State) (ch : ChannelId) (k : EventKind) :
    (s.raise ch k).unscripted = s.unscripted :=
  State.raise_keeps (P := fun t => t.unscripted = s.unscripted) (fun _ _ h => h) (fun _ _ h => h) ch k rfl
@[simp] theorem State.raise_pending (s : State) (ch : ChannelId) (k : EventKind) :
    (s.raise ch k).pending = s.pending :=
  State.raise_keeps (P := fun t => t.pending = s.pending) (fun _ _ h => h) (fun _ _ h => h) ch k rfl

theorem State.raise_link (s : State) (ch : ChannelId) (k : EventKind) : s.link.Reported (s.raise ch k).link :=
  State.raise_keeps (P := fun t => s.link.Reported t.link) (fun _ b h => h.append b) (fun _ _ h => h) ch k
    (Link.Reported.refl _)

theorem State.placeDeliveries_getElem (s : State) (l : LineId) (x : ChannelId) :
    (s.placeDeliveries l).channels[x] =
      match s.fabric.listeners[l][x], s.channels[x] with
      | some a, some c => some (c.place l a s.time)
      | _, c => c := getElem_ofFn_fin ..

/-- Placements give a FREE channel nothing. -/
theorem State.placeDeliveries_none {s : State} (l : LineId) {x : ChannelId} (h : s.channels[x] = none) :
    (s.placeDeliveries l).channels[x] = none := by
  rw [State.placeDeliveries_getElem, h]
  split <;> simp_all

/-- Placements change a record's deliveries alone. -/
theorem State.placeDeliveries_some {s : State} (l : LineId) {x : ChannelId} {c : Channel} (h : s.channels[x] = some c) :
    ∃ ds, (s.placeDeliveries l).channels[x] = some { c with deliveries := ds } := by
  rw [State.placeDeliveries_getElem, h]
  split
  · rename_i _ _ _ _ e
    cases e
    exact ⟨_, rfl⟩
  · exact ⟨c.deliveries, rfl⟩

/-- A raised event gives a FREE channel nothing. -/
theorem State.raise_none {s : State} (ch : ChannelId) (k : EventKind) {x : ChannelId} (h : s.channels[x] = none) :
    (s.raise ch k).channels[x] = none :=
  State.raise_keeps (P := fun t => t.channels[x] = none) (fun _ _ h => h)
    (fun _ l h => State.placeDeliveries_none l h) ch k h

/-- A raised event changes a record's deliveries alone. -/
theorem State.raise_some {s : State} (ch : ChannelId) (k : EventKind) {x : ChannelId} {c : Channel}
    (h : s.channels[x] = some c) : ∃ ds, (s.raise ch k).channels[x] = some { c with deliveries := ds } :=
  State.raise_keeps (P := fun t => ∃ ds, t.channels[x] = some { c with deliveries := ds }) (fun _ _ h => h)
    (fun _ l h => by
      obtain ⟨ds, h⟩ := h
      obtain ⟨es, h⟩ := State.placeDeliveries_some l h
      exact ⟨es, h⟩) ch k ⟨c.deliveries, h⟩

theorem lines_eq : lines = List.finRange 8 := rfl
theorem channelIds_eq : channelIds = List.finRange 16 := rfl

/-- One where an entry is present. -/
def entryCount (a : Option Action) : Nat := if a.isSome then 1 else 0

/-- The number of listener entries, as a sum over lines and targets (R119). -/
theorem Fabric.entries_length (f : Fabric) :
    f.entries.length = ∑ l : LineId, ∑ t : ChannelId, entryCount f.listeners[l][t] := by
  have row : ∀ (ts : List ChannelId) (l : LineId),
      (ts.filterMap fun t => (f.listeners[l][t]).map fun a => (l, t, a)).length =
        (ts.map fun t => entryCount f.listeners[l][t]).sum := by
    intro ts l
    induction ts with
    | nil => rfl
    | cons t ts ih =>
      rw [List.filterMap_cons, List.map_cons, List.sum_cons, ← ih]
      cases f.listeners[l][t] <;> simp [entryCount, Nat.add_comm]
  rw [Fabric.entries, List.length_flatMap, lines_eq, channelIds_eq]
  simp only [row, Fin.sum_univ_def]

end Sys2Proof.Machine
end

