-- ==== Sys2Proof/Laws/Tick.lean ====
section
/-! SUPPORT. What one tick of a channel can do to the rest of the state: nothing but reports, user counts, the channel's own
record within its wiring, and placements at the other channels. -/

namespace Sys2Proof.Machine

/-- `t` is a state that a tick of channel `ch` may leave from `s`. -/
structure State.Plays (ch : ChannelId) (s t : State) : Prop where
  time : t.time = s.time
  timebases : t.timebases = s.timebases
  pinTable : t.pinTable = s.pinTable
  fabric : t.fabric = s.fabric
  hold : t.hold = s.hold
  inColdReset : t.inColdReset = s.inColdReset
  resetRun : t.resetRun = s.resetRun
  script : t.script = s.script
  unscripted : t.unscripted = s.unscripted
  pending : t.pending = s.pending
  link : s.link.Reported t.link
  free : t.store.free = s.store.free
  defined : t.store.defined = s.store.defined
  pattern : ∀ p : PatternId, t.store.rows[p].pattern = s.store.rows[p].pattern
  wiring : ∀ x : ChannelId, t.channels[x].map Channel.wiring = s.channels[x].map Channel.wiring
  others : ∀ (x : ChannelId) (c : Channel), x ≠ ch → s.channels[x] = some c →
    ∃ ds, t.channels[x] = some { c with deliveries := ds }

namespace State.Plays

variable {ch : ChannelId} {s t u : State}

theorem refl (ch : ChannelId) (s : State) : Plays ch s s :=
  ⟨rfl, rfl, rfl, rfl, rfl, rfl, rfl, rfl, rfl, rfl, .refl _, rfl, rfl, fun _ => rfl, fun _ => rfl,
    fun _ c _ h => ⟨c.deliveries, h⟩⟩

theorem trans (h : Plays ch s t) (g : Plays ch t u) : Plays ch s u where
  time := g.time.trans h.time
  timebases := g.timebases.trans h.timebases
  pinTable := g.pinTable.trans h.pinTable
  fabric := g.fabric.trans h.fabric
  hold := g.hold.trans h.hold
  inColdReset := g.inColdReset.trans h.inColdReset
  resetRun := g.resetRun.trans h.resetRun
  script := g.script.trans h.script
  unscripted := g.unscripted.trans h.unscripted
  pending := g.pending.trans h.pending
  link := h.link.trans g.link
  free := g.free.trans h.free
  defined := g.defined.trans h.defined
  pattern p := (g.pattern p).trans (h.pattern p)
  wiring x := (g.wiring x).trans (h.wiring x)
  others x c hx hc := by
    obtain ⟨ds, e⟩ := h.others x c hx hc
    obtain ⟨es, e⟩ := g.others x _ hx e
    exact ⟨es, e⟩

theorem report (h : Plays ch s t) (b : ReportBody) : Plays ch s (t.report b) :=
  h.trans ⟨rfl, rfl, rfl, rfl, rfl, rfl, rfl, rfl, rfl, rfl, (Link.Reported.refl _).append b, rfl, rfl, fun _ => rfl,
    fun _ => rfl, fun _ c _ h => ⟨c.deliveries, h⟩⟩

theorem raise (h : Plays ch s t) (x : ChannelId) (k : EventKind) : Plays ch s (t.raise x k) := by
  refine h.trans ⟨by simp, by simp, by simp, by simp, by simp, by simp, by simp, by simp, by simp, by simp,
    t.raise_link x k, by simp, by simp, fun _ => by simp, fun y => ?_, fun y c _ hc => State.raise_some x k hc⟩
  cases e : t.channels[y] with
  | none => rw [State.raise_none x k e]
  | some c =>
    obtain ⟨ds, e⟩ := State.raise_some x k e
    rw [e]; rfl

theorem setChannel (h : Plays ch s t) {c c' : Channel} (e : t.channels[ch] = some c) (w : c'.wiring = c.wiring) :
    Plays ch s (t.setChannel ch (some c')) := by
  refine h.trans ⟨rfl, rfl, rfl, rfl, rfl, rfl, rfl, rfl, rfl, rfl, .refl _, rfl, rfl, fun _ => rfl, fun x => ?_,
    fun x d hx hd => ⟨d.deliveries, ?_⟩⟩
  · rw [State.setChannel_getElem]
    split
    · subst x; rw [e]; simp [w]
    · rfl
  · rw [State.setChannel_getElem, if_neg (Ne.symm hx)]; exact hd

theorem updateChannel (h : Plays ch s t) {f : Channel → Channel} (w : ∀ c, (f c).wiring = c.wiring) :
    Plays ch s (t.updateChannel ch f) := by
  cases e : t.channels[ch] with
  | none => rwa [State.updateChannel_eq_of_none e]
  | some c => rw [State.updateChannel_eq_of_some e]; exact h.setChannel e (w c)

theorem store (h : Plays ch s t) {st : PatternStore} (hf : st.free = t.store.free) (hd : st.defined = t.store.defined)
    (hp : ∀ p : PatternId, st.rows[p].pattern = t.store.rows[p].pattern) : Plays ch s { t with store := st } :=
  h.trans ⟨rfl, rfl, rfl, rfl, rfl, rfl, rfl, rfl, rfl, rfl, .refl _, hf, hd, hp, fun _ => rfl,
    fun _ c _ e => ⟨c.deliveries, e⟩⟩

end State.Plays

/-! ### Wiring of updated records -/

theorem Channel.wiring_updateOutput (c : Channel) (f : OutputRole → OutputRole)
    (hf : ∀ o, (f o).idleLevel = o.idleLevel) : (c.updateOutput f).wiring = c.wiring := by
  rcases c with ⟨_, _, _, _, _, _, _, _, o | i⟩ <;> simp [Channel.updateOutput, Channel.wiring, Role.cleared, hf]

theorem Channel.wiring_updateInput (c : Channel) (f : InputRole → InputRole) (hf : ∀ i, (f i).cleared = i.cleared) :
    (c.updateInput f).wiring = c.wiring := by
  rcases c with ⟨_, _, _, _, _, _, _, _, o | i⟩ <;> simp [Channel.updateInput, Channel.wiring, Role.cleared, hf]

theorem Channel.wiring_halt (c : Channel) (r : HaltReason) : (c.halt r).wiring = c.wiring := by
  rcases c with ⟨_, _, _, _, _, _, _, _, o | i⟩ <;> rfl

@[simp] theorem OutputRole.begin_idleLevel (o : OutputRole) (p : Pattern) (i : Nat) : (o.begin p i).idleLevel = o.idleLevel := by
  unfold OutputRole.begin; split <;> rfl
@[simp] theorem OutputRole.begin_active (o : OutputRole) (p : Pattern) (i : Nat) : (o.begin p i).active = o.active := by
  unfold OutputRole.begin; split <;> rfl
@[simp] theorem OutputRole.begin_staged (o : OutputRole) (p : Pattern) (i : Nat) : (o.begin p i).staged = o.staged := by
  unfold OutputRole.begin; split <;> rfl
@[simp] theorem OutputRole.begin_reps (o : OutputRole) (p : Pattern) (i : Nat) : (o.begin p i).reps = o.reps := by
  unfold OutputRole.begin; split <;> rfl
@[simp] theorem OutputRole.begin_doneLevel (o : OutputRole) (p : Pattern) (i : Nat) : (o.begin p i).doneLevel = o.doneLevel := by
  unfold OutputRole.begin; split <;> rfl

/-- A segment that exists begins with its whole duration (R53, R56, R57). -/
theorem OutputRole.begin_of_some (o : OutputRole) {p : Pattern} {i : Nat} {g : Segment} (h : p.segments[i]? = some g) :
    o.begin p i = { o with segIndex := i, ticksLeft := some g.duration } := by
  rw [OutputRole.begin, h]

@[simp] theorem OutputRole.swapped_idleLevel (o : OutputRole) (t : PatternStore) (g : Staged) :
    (o.swapped t g).idleLevel = o.idleLevel := by
  unfold OutputRole.swapped; split <;> simp
@[simp] theorem OutputRole.swapped_active (o : OutputRole) (t : PatternStore) (g : Staged) :
    (o.swapped t g).active = some g.pattern := by
  unfold OutputRole.swapped; split <;> simp
@[simp] theorem OutputRole.swapped_staged (o : OutputRole) (t : PatternStore) (g : Staged) :
    (o.swapped t g).staged = none := by
  unfold OutputRole.swapped; split <;> simp

/-! ### Output channels -/

namespace State.Plays

variable {ch : ChannelId} {s t : State}

theorem beginSegment (h : Plays ch s t) (p : Pattern) (i reps : Nat) : Plays ch s (t.beginSegment ch p i reps) :=
  h.updateChannel fun c => c.wiring_updateOutput _ (by simp)

theorem enterRunning (h : Plays ch s t) : Plays ch s (t.enterRunning ch) := by
  unfold State.enterRunning
  split
  · exact h
  · rename_i c e
    refine (h.setChannel e ?_).raise _ _
    rcases c with ⟨_, _, _, _, _, _, _, _, o | i⟩
    · dsimp only [Channel.wiring]
      cases t.activePattern o <;> simp only [Role.cleared, OutputRole.begin_idleLevel]
    · rfl

theorem swap (h : Plays ch s t) (cause : SwapCause) : Plays ch s (t.swap ch cause) := by
  unfold State.swap
  split
  · exact h
  · rename_i c o e
    obtain ⟨hc, hr⟩ := State.outputChannel_eq_some.mp e
    split
    · exact h
    · refine (((h.store (st := t.store.releaseField o.active) ?_ ?_ ?_).setChannel (c := c) hc ?_).raise _ _).report _
      · simp
      · simp
      · exact fun p => t.store.releaseField_pattern o.active p p.isLt
      · simp [Channel.wiring, Role.cleared, hr]

theorem endPlay (h : Plays ch s t) (p : Pattern) : Plays ch s (t.endPlay ch p) := by
  have h := h.raise ch .done
  unfold State.endPlay
  dsimp only
  split
  · exact h
  · rename_i c o e
    obtain ⟨hc, hr⟩ := State.outputChannel_eq_some.mp e
    split
    · exact h.setChannel hc (by simp [Channel.wiring, Role.cleared, Channel.rearmOutput, hr])
    · exact (h.setChannel hc (by simp [Channel.wiring, Role.cleared, Channel.finish, hr])).report _

theorem endRepetition (h : Plays ch s t) (o : OutputRole) (p : Pattern) : Plays ch s (t.endRepetition ch o p) := by
  have h := (h.updateChannel (f := fun c => c.updateOutput fun q => { q with reps := countUp o.reps })
    fun c => c.wiring_updateOutput _ (by simp)).raise ch .cycle
  unfold State.endRepetition
  dsimp only
  split
  · exact h.swap _
  · split
    · exact h.beginSegment _ _ _
    · exact h.endPlay _

theorem endSegment (h : Plays ch s t) : Plays ch s (t.endSegment ch) := by
  unfold State.endSegment
  split
  · exact h
  · split
    · exact h
    · split
      · exact h
      · rename_i g _
        unfold State.afterMark
        dsimp only
        have h : Plays ch s (if g.mark = true then t.raise ch .mark else t) := by
          split
          · exact h.raise _ _
          · exact h
        split
        · split
          · exact (h.raise _ _).swap _
          · exact h.swap _
        · split
          · exact h.endRepetition _ _
          · exact h.beginSegment _ _ _

theorem countSegment (h : Plays ch s t) : Plays ch s (t.countSegment ch) := by
  unfold State.countSegment
  split
  · exact h
  · split
    · exact h
    · split
      · exact h.endSegment
      · exact h.updateChannel fun c => c.wiring_updateOutput _ (by simp)

theorem restart (h : Plays ch s t) : Plays ch s (t.restart ch) := by
  unfold State.restart
  split
  · exact h
  · split
    · exact h
    · exact h.beginSegment _ _ _

/-! ### Input channels -/

theorem capture (h : Plays ch s t) (k : CaptureKind) (time : Time) : Plays ch s (t.capture ch k time) := by
  unfold State.capture
  split
  · exact h
  · rename_i c i e
    obtain ⟨hc, hr⟩ := State.inputChannel_eq_some.mp e
    exact (h.setChannel hc (by simp [Channel.wiring, Role.cleared, hr, InputRole.captured, InputRole.cleared])).report _

theorem testLimit (h : Plays ch s t) : Plays ch s (t.testLimit ch) := by
  unfold State.testLimit
  split
  · exact h
  · split
    · have h := h.raise ch .limit
      dsimp only
      split
      · exact h
      · rename_i c i e
        obtain ⟨hc, hr⟩ := State.inputChannel_eq_some.mp e
        split
        · exact h.setChannel hc (by simp [Channel.wiring, Role.cleared, hr, Channel.rearmInput, InputRole.cleared])
        · exact (h.setChannel hc (by
            simp [Channel.wiring, Role.cleared, Role.cut, hr, Channel.limitReached, InputRole.cleared])).report _
    · exact h

theorem startWindow (h : Plays ch s t) : Plays ch s (t.startWindow ch) :=
  h.updateChannel fun c => c.wiring_updateInput _ (by simp [InputRole.cleared])

theorem acceptEdge (h : Plays ch s t) (cand : Sample) (start : Time) : Plays ch s (t.acceptEdge ch cand start) := by
  unfold State.acceptEdge
  split
  · exact h
  · rename_i c i e
    obtain ⟨hc, hr⟩ := State.inputChannel_eq_some.mp e
    have h := h.setChannel hc (c' := { c with role := .input { i with accepted := some cand, qual := none } })
      (by simp [Channel.wiring, Role.cleared, hr, InputRole.cleared])
    dsimp only
    split
    · exact (((h.capture _ _).raise _ _).startWindow).testLimit
    · exact h

theorem expire (h : Plays ch s t) : Plays ch s (t.expire ch) := by
  unfold State.expire
  split
  · exact h
  · rename_i i _
    have h := (h.report (.capture ch .timeout i.captures t.time (i.interval t.time))).raise ch .timeout
    dsimp only
    split
    · exact h.startWindow
    · exact (h.updateChannel fun c => c.wiring_halt .timeout).report _

theorem countWindow (h : Plays ch s t) : Plays ch s (t.countWindow ch) := by
  unfold State.countWindow
  split
  · exact h
  · split
    · exact h
    · split
      · exact h.expire
      · exact h.updateChannel fun c => c.wiring_updateInput _ (by simp [InputRole.cleared])

theorem inputWork (h : Plays ch s t) (sample : Sample) : Plays ch s (t.inputWork ch sample) := by
  unfold State.inputWork
  split
  · exact h
  · split
    · exact (h.updateChannel fun c => c.wiring_updateInput _ (by simp [InputRole.cleared])).startWindow
    · split
      · exact h.countWindow
      · exact (h.updateChannel fun c => c.wiring_updateInput _ (by simp [InputRole.cleared])).countWindow
      · split
        · exact h.acceptEdge _ _
        · exact (h.acceptEdge _ _).countWindow

/-! ### The stages of a tick -/

theorem deliver (h : Plays ch s t) (d : Delivery) : Plays ch s (t.deliver ch d).state := by
  unfold State.deliver
  split
  · unfold State.deliverStart
    split
    · exact h
    · split
      · exact h
      · split
        · exact h.enterRunning
        · exact h
  · unfold State.deliverStop
    split
    · exact h
    · rename_i c e
      split
      · exact (h.setChannel e (c.wiring_halt _)).report _
      · exact h
  · unfold State.deliverRestart
    split
    · exact h
    · split
      · exact h.restart
      · exact h
  · unfold State.deliverSwap
    split
    · exact h
    · split
      · exact h.swap _
      · exact h
  · unfold State.deliverStamp
    split
    · exact h
    · split
      · exact (h.capture _ _).testLimit
      · exact h

theorem applyLine {w : Staging} (h : Plays ch s w.state) (l : LineId) : Plays ch s (w.applyLine ch l).state := by
  unfold Staging.applyLine
  split
  · exact h
  · rename_i c e
    split
    · exact h
    · exact (h.setChannel (c' := c.undeliver l) e rfl).deliver _

theorem deliveryStage (s : State) (ch : ChannelId) : Plays ch s (s.deliveryStage ch).state := by
  unfold State.deliveryStage
  have h : Plays ch s (Staging.mk s false).state := refl ch s
  generalize Staging.mk s false = w at h ⊢
  generalize lines = ls
  induction ls generalizing w with
  | nil => exact h
  | cons l ls ih => exact ih (w.applyLine ch l) (h.applyLine l)

theorem ownWork (h : Plays ch s t) (sample : Sample) (began : Bool) : Plays ch s (t.ownWork ch sample began) := by
  unfold State.ownWork
  split
  · exact h
  · split
    · split
      · split
        · exact h.enterRunning
        · exact h.enterRunning.inputWork _
      · exact h
    · split
      · split
        · exact h
        · exact h.countSegment
      · exact h.inputWork _
    · exact h

/-- Everything that one tick of a channel can do. -/
theorem tickChannel (s : State) (ch : ChannelId) (sample : Sample) : Plays ch s (s.tickChannel ch sample) :=
  (deliveryStage s ch).ownWork _ _

theorem tickWhen (s : State) (ch : ChannelId) (sample : Sample) (happens : Bool) :
    Plays ch s (s.tickWhen ch sample happens) := by
  unfold State.tickWhen
  split
  · exact tickChannel s ch sample
  · exact refl ch s

end State.Plays

end Sys2Proof.Machine
end

