-- ==== Sys2Proof/Laws/Delivery.lean ====
section
/-! SUPPORT. The delivery stage of a tick, line by line: what the rest of a tick does when a delivery is due in it, and when none is. -/

namespace Sys2Proof.Machine

variable {s : State} {ch : ChannelId} {c : Channel} {l : LineId} {d : Delivery}

/-! ### What is due -/

theorem Channel.due_eq_some {now : Time} :
    c.due l now = some d ↔ c.deliveries[l] = some d ∧ ahead now d.firstTime = true := by
  unfold Channel.due
  cases e : c.deliveries[l] with
  | none => simp
  | some x => by_cases h : ahead now x.firstTime = true <;> simp [h] <;> rintro rfl <;> simpa using h

theorem Channel.due_eq_none {now : Time} :
    c.due l now = none ↔ ∀ d, c.deliveries[l] = some d → ahead now d.firstTime = false := by
  unfold Channel.due
  cases e : c.deliveries[l] with
  | none => simp
  | some x => by_cases h : ahead now x.firstTime = true <;> simp [h]

theorem Channel.NothingDue.due_eq_none {now : Time} (h : c.NothingDue now) (l : LineId) : c.due l now = none :=
  Channel.due_eq_none.mpr (h l)

/-- The first due delivery of a tick is the first from line 0 on. -/
theorem Channel.FirstDue.from_zero {now : Time} (h : c.FirstDue now l d) : c.FirstDueFrom 0 now l d :=
  ⟨h.1, h.2.1, Nat.zero_le _, fun k e _ => h.2.2 k e⟩

/-- The only due delivery of a tick is the first. -/
theorem Channel.OnlyDue.first {now : Time} (h : c.OnlyDue now l d) : c.FirstDue now l d :=
  ⟨h.1, h.2.1, fun k e hk => h.2.2 k e (ne_of_lt hk)⟩

/-! ### The stage, line by line -/

theorem Staging.applyLine_of_not_due {w : Staging} (hc : w.state.channels[ch] = some c)
    (h : c.due l w.state.time = none) : w.applyLine ch l = w := by
  rw [Staging.applyLine, hc]; simp only [h]

theorem Staging.applyLine_of_due {w : Staging} (hc : w.state.channels[ch] = some c)
    (h : c.due l w.state.time = some d) :
    w.applyLine ch l =
      ⟨((w.state.setChannel ch (some (c.undeliver l))).deliver ch d).state,
        w.began || ((w.state.setChannel ch (some (c.undeliver l))).deliver ch d).began⟩ := by
  rw [Staging.applyLine, hc]; simp only [h]

theorem Staging.foldl_of_not_due {w : Staging} (hc : w.state.channels[ch] = some c) (ls : List LineId)
    (h : ∀ k ∈ ls, c.due k w.state.time = none) : ls.foldl (fun w l => w.applyLine ch l) w = w := by
  induction ls with
  | nil => rfl
  | cons k ls ih =>
    rw [List.foldl_cons, Staging.applyLine_of_not_due hc (h k List.mem_cons_self)]
    exact ih fun k hk => h k (List.mem_cons_of_mem _ hk)

/-- The lines from `n` on are those below `l`, then `l`, then those above. -/
theorem lines_from (l : LineId) {n : Nat} (h : n ≤ l.val) :
    (lines.filter fun k => decide (n ≤ k.val)) =
      (lines.filter fun k => decide (n ≤ k.val ∧ k < l)) ++ l :: lines.filter fun k => decide (l.val + 1 ≤ k.val) := by
  have all : ∀ l : LineId, ∀ n : Fin 8, n.val ≤ l.val → (lines.filter fun k => decide (n.val ≤ k.val)) =
      (lines.filter fun k => decide (n.val ≤ k.val ∧ k < l)) ++ l :: lines.filter fun k => decide (l.val + 1 ≤ k.val) := by
    decide
  exact all l ⟨n, lt_of_le_of_lt h l.isLt⟩ h

/-! ### The rest of a tick -/

theorem State.tickFrom_zero (s : State) (ch : ChannelId) (y : Sample) : s.tickFrom ch y 0 false = s.tickChannel ch y := rfl

theorem State.tickFrom_of_none {y : Sample} {n : Nat} {began : Bool} (hc : s.channels[ch] = some c)
    (h : ∀ k : LineId, n ≤ k.val → c.due k s.time = none) : s.tickFrom ch y n began = s.ownWork ch y began := by
  rw [State.tickFrom, Staging.foldl_of_not_due (w := ⟨s, began⟩) hc]
  intro k hk
  exact h k (by simpa using (List.mem_filter.mp hk).2)

/-- Lines with nothing due are passed over. -/
theorem State.tickFrom_skip {y : Sample} {n m : Nat} {began : Bool} (hc : s.channels[ch] = some c) (hm : n ≤ m)
    (h : ∀ k : LineId, n ≤ k.val → k.val < m → c.due k s.time = none) :
    s.tickFrom ch y n began = s.tickFrom ch y m began := by
  have split : (lines.filter fun k => decide (n ≤ k.val)) =
      (lines.filter fun k => decide (n ≤ k.val ∧ k.val < m)) ++ lines.filter fun k => decide (m ≤ k.val) := by
    by_cases h8 : m < 8
    · have all : ∀ n m : Fin 8, n ≤ m → (lines.filter fun k => decide (n.val ≤ k.val)) =
          (lines.filter fun k => decide (n.val ≤ k.val ∧ k.val < m.val)) ++ lines.filter fun k => decide (m.val ≤ k.val) := by
        decide
      exact all ⟨n, lt_of_le_of_lt hm h8⟩ ⟨m, h8⟩ hm
    · have below : ∀ k : LineId, k.val < m := fun k => lt_of_lt_of_le k.isLt (not_lt.mp h8)
      have none : (lines.filter fun k => decide (m ≤ k.val)) = [] := List.filter_eq_nil_iff.mpr fun k _ => by simpa using below k
      rw [none, List.append_nil]
      exact List.filter_congr fun k _ => by simp [below k]
  rw [State.tickFrom, split, List.foldl_append, Staging.foldl_of_not_due (w := ⟨s, began⟩) hc]
  · rfl
  · intro k hk
    have hk := (List.mem_filter.mp hk).2
    rw [decide_eq_true_eq] at hk
    exact h k hk.1 hk.2

/-- The rest of a tick in which a delivery is due: it leaves the record, its action is applied, and the lines above it follow. -/
theorem State.tickFrom_of_due {y : Sample} {n : Nat} {began : Bool} (hc : s.channels[ch] = some c)
    (h : c.FirstDueFrom n s.time l d) :
    s.tickFrom ch y n began =
      let r := (s.setChannel ch (some (c.undeliver l))).deliver ch d
      r.state.tickFrom ch y (l + 1) (began || r.began) := by
  obtain ⟨hd, ha, hn, hbelow⟩ := h
  rw [State.tickFrom, lines_from l hn, List.foldl_append,
    Staging.foldl_of_not_due (w := ⟨s, began⟩) hc, List.foldl_cons,
    Staging.applyLine_of_due (w := ⟨s, began⟩) hc (Channel.due_eq_some.mpr ⟨hd, ha⟩)]
  · rfl
  · intro k hk
    have hk := (List.mem_filter.mp hk).2
    rw [decide_eq_true_eq] at hk
    exact Channel.due_eq_none.mpr fun e he => hbelow k e hk.1 hk.2 he

/-- A tick in which a delivery is due first, as the row and as CHANNEL_TICK. -/
theorem State.tickChannel_of_due {y : Sample} (hc : s.channels[ch] = some c) (h : c.FirstDue s.time l d) :
    s.tickChannel ch y =
      let r := (s.setChannel ch (some (c.undeliver l))).deliver ch d
      r.state.tickFrom ch y (l + 1) r.began := by
  have e := State.tickFrom_of_due (y := y) (began := false) hc h.from_zero
  simpa only [State.tickFrom_zero, Bool.false_or] using e

theorem State.ticksDelivery_of_due (hc : s.channels[ch] = some c) (h : c.FirstDue s.time l d) : s.ticksDelivery ch = true := by
  have hl : ∀ l : LineId, l ∈ lines := by decide
  rw [State.ticksDelivery, hc]
  exact List.any_eq_true.mpr ⟨l, hl l, by rw [Channel.due_eq_some.mpr ⟨h.1, h.2.1⟩]; rfl⟩

end Sys2Proof.Machine
end

