-- ==== Sys2Proof/Laws/Request.lean ====
section
/-! SUPPORT. What the arrival checks and the executor can do (R147, R149, R151), and which command a queued request is. -/

namespace Sys2Proof.Machine

/-! ### Arrival -/

theorem Link.pushReply_cases (k : Link) (f : Frame) :
    (k.replies.length < Config.replySlots ∧ k.pushReply f = { k with replies := k.replies ++ [f] }) ∨
    (Config.replySlots ≤ k.replies.length ∧ k.pushReply f = k) := by
  unfold Link.pushReply
  split
  · exact .inl ⟨‹_›, rfl⟩
  · exact .inr ⟨by omega, rfl⟩

/-- R147 checks 3 to 5. -/
theorem Link.screen_cases (k : Link) (r : Request) :
    (r.tag ∈ k.requests.map Request.tag ∧ k.screen r = k) ∨
    (r.tag ∉ k.requests.map Request.tag ∧ k.requests.length < Config.requestSlots ∧
      k.screen r = { k with requests := k.requests ++ [r] }) ∨
    (r.tag ∉ k.requests.map Request.tag ∧ Config.requestSlots ≤ k.requests.length ∧
      k.screen r = k.pushReply (replyFrame r [statusByte .queueFull])) := by
  unfold Link.screen
  split
  · rename_i h
    exact .inl ⟨List.contains_iff_mem.mp h, rfl⟩
  · rename_i h
    replace h : r.tag ∉ k.requests.map Request.tag := fun m => h (List.contains_iff_mem.mpr m)
    split
    · exact .inr (.inl ⟨h, ‹_›, rfl⟩)
    · exact .inr (.inr ⟨h, by omega, rfl⟩)

/-- The link unit after check 2 of R147: no entry of the replay table holds the tag. -/
def Link.forget (k : Link) (tag : Byte) : Link :=
  { k with replay := k.replay.filter fun e => decide (e.tag ≠ tag) }

/-- R147: the request is answered from the replay table, or goes on to checks 3 to 5 with no entry of its tag left. -/
theorem Link.arrive_cases (k : Link) (r : Request) :
    (∃ e ∈ k.replay, e.tag = r.tag ∧ e.crc = r.crc ∧ k.arrive r = k.pushReply e.reply) ∨
    k.arrive r = (k.forget r.tag).screen r := by
  unfold Link.arrive
  split
  · rename_i e he
    split
    · exact .inl ⟨e, List.mem_of_find?_eq_some he, by simpa using List.find?_some he, ‹_›, rfl⟩
    · exact .inr rfl
  · rename_i he
    refine .inr ?_
    have : k.forget r.tag = k := by
      have e : k.replay.filter (fun e => decide (e.tag ≠ r.tag)) = k.replay := by
        rw [List.filter_eq_self]
        intro e h
        simpa using List.find?_eq_none.mp he e h
      simp only [Link.forget, e]
    rw [this]

/-- The arrival checks touch the request queue, the reply queue and the replay table alone. -/
theorem Link.arrive_frame (k : Link) (r : Request) :
    k.arrive r = { k with requests := (k.arrive r).requests, replies := (k.arrive r).replies, replay := (k.arrive r).replay } := by
  rcases k.arrive_cases r with ⟨e, _, _, _, h⟩ | h
  · rcases k.pushReply_cases e.reply with ⟨_, g⟩ | ⟨_, g⟩ <;> rw [h, g]
  · rcases (k.forget r.tag).screen_cases r with ⟨_, g⟩ | ⟨_, _, g⟩ | ⟨_, _, g⟩
    · rw [h, g]; rfl
    · rw [h, g]; rfl
    · rcases (k.forget r.tag).pushReply_cases (replyFrame r [statusByte .queueFull]) with ⟨_, p⟩ | ⟨_, p⟩ <;>
        rw [h, g, p] <;> rfl

/-! ### The executor -/

/-- What a request command can do: nothing in cold reset; else the request arrives, and is taken when the executor may. -/
theorem State.request_cases (s : State) (r : Request) (owner : List Byte → State → Answer) :
    (s.inColdReset = true ∧ s.request r owner = s) ∨
    (s.inColdReset = false ∧ s.takes r = false ∧ s.request r owner = s.arrived r) ∨
    (s.takes r = true ∧ s.request r owner = (s.taken r).conclude r (owner r.body (s.taken r))) := by
  unfold State.request State.takes
  cases hc : s.inColdReset
  · cases hr : (s.arrived r).ready r
    · exact .inr (.inl ⟨rfl, rfl, by simp⟩)
    · exact .inr (.inr ⟨rfl, by simp [State.take, State.taken]⟩)
  · exact .inl ⟨rfl, by simp⟩

/-- A request command that the executor takes. -/
theorem State.request_of_takes {s : State} {r : Request} (h : s.takes r = true) (owner : List Byte → State → Answer) :
    s.request r owner = (s.taken r).conclude r (owner r.body (s.taken r)) := by
  rcases s.request_cases r owner with ⟨c, _⟩ | ⟨_, c, _⟩ | ⟨_, e⟩
  · simp [State.takes, c] at h
  · simp [c] at h
  · exact e

/-- A refusal answers with its status alone (R165). -/
theorem State.conclude_refuse (s : State) (r : Request) (st : Status) :
    s.conclude r (.refuse st) = s.answered r st [] := rfl

/-- A success answers with status OK and the results. -/
theorem State.conclude_succeed (s t : State) (r : Request) (results : List Byte) :
    s.conclude r (.succeed t results) = t.answered r .ok results := rfl

@[simp] theorem State.arrived_time (s : State) (r : Request) : (s.arrived r).time = s.time := by
  unfold State.arrived; split <;> rfl
@[simp] theorem State.arrived_timebases (s : State) (r : Request) : (s.arrived r).timebases = s.timebases := by
  unfold State.arrived; split <;> rfl
@[simp] theorem State.arrived_store (s : State) (r : Request) : (s.arrived r).store = s.store := by
  unfold State.arrived; split <;> rfl
@[simp] theorem State.arrived_channels (s : State) (r : Request) : (s.arrived r).channels = s.channels := by
  unfold State.arrived; split <;> rfl
@[simp] theorem State.arrived_pinTable (s : State) (r : Request) : (s.arrived r).pinTable = s.pinTable := by
  unfold State.arrived; split <;> rfl
@[simp] theorem State.arrived_fabric (s : State) (r : Request) : (s.arrived r).fabric = s.fabric := by
  unfold State.arrived; split <;> rfl
@[simp] theorem State.arrived_hold (s : State) (r : Request) : (s.arrived r).hold = s.hold := by
  unfold State.arrived; split <;> rfl
@[simp] theorem State.arrived_inColdReset (s : State) (r : Request) : (s.arrived r).inColdReset = s.inColdReset := by
  unfold State.arrived; split <;> rfl
@[simp] theorem State.arrived_resetRun (s : State) (r : Request) : (s.arrived r).resetRun = s.resetRun := by
  unfold State.arrived; split <;> rfl
@[simp] theorem State.arrived_script (s : State) (r : Request) : (s.arrived r).script = s.script := by
  unfold State.arrived; split <;> rfl
@[simp] theorem State.arrived_unscripted (s : State) (r : Request) : (s.arrived r).unscripted = s.unscripted := by
  unfold State.arrived; split <;> rfl
@[simp] theorem State.arrived_pending (s : State) (r : Request) : (s.arrived r).pending = s.pending := by
  unfold State.arrived; split <;> rfl

@[simp] theorem State.taken_time (s : State) (r : Request) : (s.taken r).time = s.time := s.arrived_time r
@[simp] theorem State.taken_timebases (s : State) (r : Request) : (s.taken r).timebases = s.timebases := s.arrived_timebases r
@[simp] theorem State.taken_store (s : State) (r : Request) : (s.taken r).store = s.store := s.arrived_store r
@[simp] theorem State.taken_channels (s : State) (r : Request) : (s.taken r).channels = s.channels := s.arrived_channels r
@[simp] theorem State.taken_pinTable (s : State) (r : Request) : (s.taken r).pinTable = s.pinTable := s.arrived_pinTable r
@[simp] theorem State.taken_fabric (s : State) (r : Request) : (s.taken r).fabric = s.fabric := s.arrived_fabric r
@[simp] theorem State.taken_hold (s : State) (r : Request) : (s.taken r).hold = s.hold := s.arrived_hold r
@[simp] theorem State.taken_inColdReset (s : State) (r : Request) : (s.taken r).inColdReset = s.inColdReset :=
  s.arrived_inColdReset r
@[simp] theorem State.taken_resetRun (s : State) (r : Request) : (s.taken r).resetRun = s.resetRun := s.arrived_resetRun r
@[simp] theorem State.taken_script (s : State) (r : Request) : (s.taken r).script = s.script := s.arrived_script r
@[simp] theorem State.taken_unscripted (s : State) (r : Request) : (s.taken r).unscripted = s.unscripted :=
  s.arrived_unscripted r
@[simp] theorem State.taken_pending (s : State) (r : Request) : (s.taken r).pending = s.pending := s.arrived_pending r

/-- What leaving the queue and arriving touch of the link unit: the request queue, the reply queue and the replay table. -/
theorem State.taken_link (s : State) (r : Request) :
    (s.taken r).link = { s.link with requests := (s.taken r).link.requests, replies := (s.taken r).link.replies,
                                     replay := (s.taken r).link.replay } := by
  unfold State.taken State.popped State.arrived
  split
  · rfl
  · rw [Link.arrive_frame]

/-- A request that is taken was the oldest, or arrived at an empty queue; the replies are as they were, with room. -/
theorem State.taken_queues {s : State} {r : Request} (h : s.takes r = true) :
    (s.taken r).link.requests = s.link.requests.tail ∧ (s.taken r).link.replies = s.link.replies ∧
    s.link.replies.length < Config.replySlots := by
  simp only [State.takes, State.ready, Bool.and_eq_true, decide_eq_true_eq] at h
  obtain ⟨_, h2, h3⟩ := h
  simp only [State.taken, State.popped, State.arrived] at h2 h3 ⊢
  by_cases hh : s.link.requests.head? = some r
  · rw [if_pos hh] at h3 ⊢
    exact ⟨rfl, rfl, h3⟩
  · rw [if_neg hh] at h2 h3 ⊢
    rcases s.link.arrive_cases r with ⟨e, _, _, _, g⟩ | g
    · rcases s.link.pushReply_cases e.reply with ⟨_, p⟩ | ⟨_, p⟩ <;> rw [g, p] at h2 <;> exact absurd h2 hh
    · rcases (s.link.forget r.tag).screen_cases r with ⟨_, p⟩ | ⟨_, _, p⟩ | ⟨_, _, p⟩
      · rw [g, p] at h2
        exact absurd h2 hh
      · rw [g, p] at h2 h3 ⊢
        simp only [Link.forget] at h2 h3 ⊢
        cases hq : s.link.requests with
        | nil => exact ⟨rfl, trivial, h3⟩
        | cons a l =>
          rw [hq] at h2 hh
          exact absurd h2 hh
      · rcases (s.link.forget r.tag).pushReply_cases (replyFrame r [statusByte .queueFull]) with ⟨_, q⟩ | ⟨_, q⟩ <;>
          rw [g, p, q] at h2 <;> exact absurd h2 hh

@[simp] theorem State.holdActive_taken (s : State) (r : Request) : (s.taken r).holdActive = s.holdActive := by
  simp [State.holdActive]

end Sys2Proof.Machine
end

