-- ==== Sys2Proof/Laws/Step.lean ====
section
/-! SUPPORT. How a property of the state is shown to survive a step: by every meaning, and by every part of a base tick. -/

namespace Sys2Proof.Machine

/-- What a property must survive to survive a base tick. -/
structure KeptByTickParts (P : State → Prop) : Prop where
  script : ∀ s script n, P s → P { s with script := script, unscripted := n }
  resetRun : ∀ s n, P s → P { s with resetRun := n }
  enterCold : ∀ s, P s → P s.enterColdReset
  endCold : ∀ s h l, P s → P (s.endColdReset h l)
  clock : ∀ s, P s → P s.advanceClock
  settle : ∀ s, P s → P s.settleGap
  turn : ∀ i u s, (∀ ch, u ≠ .channel ch) → P s → P (State.turn i s u)
  channel : ∀ (i : Config.TickInputs) (s : State) (ch : ChannelId), P s →
    P { State.turn i { s with link := Link.cold } (.channel ch) with link := s.link }
  report : ∀ s b, P s → P (s.report b)

theorem KeptByTickParts.linkStep {P : State → Prop} (k : KeptByTickParts P) {s : State} (i : Config.TickInputs) (x : LinkStep)
    (h : P s) : P (s.linkStep i x) := by
  cases x with
  | append b => exact k.report s b h
  | receive => exact k.turn i .receiver s nofun h
  | transmit => exact k.turn i .transmitter s nofun h

theorem KeptByTickParts.settleRound {P : State → Prop} (k : KeptByTickParts P) {w : Round} (i : Config.TickInputs)
    (h : P w.state) : P (w.settle i).state := by
  have all : ∀ (xs : List LinkStep) (s : State), P s → P (xs.foldl (State.linkStep i) s) := by
    intro xs
    induction xs with
    | nil => exact fun _ h => h
    | cons x xs ih => exact fun s h => ih _ (k.linkStep i x h)
  exact all _ _ h

theorem KeptByTickParts.roundTurn {P : State → Prop} (k : KeptByTickParts P) {w : Round} (i : Config.TickInputs) (u : TickUnit)
    (h : P w.state) : P (w.turn i u).state := by
  cases u with
  | executor => exact k.turn i .executor _ nofun (k.settleRound i h)
  | holdFilter => exact k.turn i .holdFilter _ nofun (k.settleRound i h)
  | receiver => exact h
  | transmitter => exact h
  | channel ch => exact k.channel i _ ch h

theorem KeptByTickParts.work {P : State → Prop} (k : KeptByTickParts P) {s : State} (i : Config.TickInputs) (h : P s) :
    P (s.work i) := by
  unfold State.work
  refine k.settle _ ?_
  have h := k.clock _ (k.settle _ h)
  refine k.settleRound i ?_
  have all : ∀ (us : List TickUnit) (w : Round), P w.state → P (us.foldl (Round.turn i) w).state := by
    intro us
    induction us with
    | nil => exact fun _ h => h
    | cons u us ih => exact fun w h => ih _ (k.roundTurn i u h)
  exact all _ _ h

theorem KeptByTickParts.tickWith {P : State → Prop} (k : KeptByTickParts P) {s : State} (i : Config.TickInputs) (h : P s) :
    P (s.tickWith i) := by
  unfold State.tickWith
  split
  · exact k.enterCold _ h
  · split
    · split
      · exact k.endCold _ _ _ h
      · exact h
    · split
      · exact k.work _ (k.resetRun _ _ h)
      · split
        · exact k.enterCold _ h
        · exact k.work _ (k.resetRun _ _ h)

/-- A property that survives every part of a base tick survives the base tick. -/
theorem KeptByTickParts.baseTick {P : State → Prop} (k : KeptByTickParts P) {s : State} (h : P s) : P s.baseTick := by
  unfold State.baseTick
  split
  · exact k.tickWith _ (k.script s _ s.unscripted h)
  · exact k.tickWith _ (k.script s s.script _ h)

/-- A property that survives every command and every part of a base tick, and does not read the queue, survives every step. -/
theorem KeptByTickParts.step {P : State → Prop} (k : KeptByTickParts P) (pop : ∀ s rest, P s → P { s with pending := rest })
    (hexec : ∀ i s t, P s → exec i s = .next t → P t) {s t : State} (h : P s) (e : Machine.step s = .next t) : P t := by
  unfold Machine.step at e
  split at e
  · cases e; exact k.baseTick h
  · exact hexec _ _ _ (pop _ _ h) e

/-- A request command keeps a property that the arrival keeps and that the executed request keeps. -/
theorem State.request_keeps {P : State → Prop} {s : State} {r : Request} {owner : List Byte → State → Answer} (h : P s)
    (arr : P (s.arrived r)) (take : s.takes r = true → P ((s.taken r).conclude r (owner r.body (s.taken r)))) :
    P (s.request r owner) := by
  rcases s.request_cases r owner with ⟨_, e⟩ | ⟨_, _, e⟩ | ⟨t, e⟩ <;> rw [e]
  · exact h
  · exact arr
  · exact take t

end Sys2Proof.Machine
end

