-- ==== Sys2Proof/Laws/Serial.lean ====
section
/-! SUPPORT. The rows of the serial line and the units' turns that touch the link unit alone. -/

namespace Sys2Proof.Machine

/-- `t` is `s` with another link unit. -/
def State.LinkOnly (s t : State) : Prop := t = { s with link := t.link }

theorem State.LinkOnly.refl (s : State) : s.LinkOnly s := rfl

theorem State.LinkOnly.of_link (s : State) (k : Link) : s.LinkOnly { s with link := k } := rfl

theorem State.LinkOnly.trans {s t u : State} (h : s.LinkOnly t) (g : t.LinkOnly u) : s.LinkOnly u := by
  unfold State.LinkOnly at h g ⊢
  rw [h] at g
  exact g

theorem State.judge_linkOnly (s : State) (content : List Byte) (hi lo : Byte) : s.LinkOnly (s.judge content hi lo) := by
  unfold State.judge
  dsimp only
  repeat' split
  all_goals rfl

theorem State.receiveByte_linkOnly (s : State) (b : Byte) : s.LinkOnly (s.receiveByte b) := by
  unfold State.receiveByte
  repeat' split
  all_goals first
    | rfl
    | exact s.judge_linkOnly _ _ _

theorem State.gapExpires_linkOnly (s : State) : s.LinkOnly s.gapExpires := by
  unfold State.gapExpires
  split <;> rfl

theorem State.countGap_linkOnly (s : State) : s.LinkOnly s.countGap := by
  unfold State.countGap
  split
  · rfl
  · split
    · exact s.gapExpires_linkOnly
    · rfl

theorem State.sampleCharacter_linkOnly (s : State) (lrx : Sample) : s.LinkOnly (s.sampleCharacter lrx) := by
  unfold State.sampleCharacter
  repeat' split
  all_goals first
    | rfl
    | exact (State.LinkOnly.of_link s _).trans (State.receiveByte_linkOnly _ _)

theorem State.detectBreak_linkOnly (s : State) (lrx : Sample) : s.LinkOnly (s.detectBreak lrx) := by
  unfold State.detectBreak
  split
  · rfl
  · dsimp only
    split <;> rfl

theorem State.receiverTurn_linkOnly (s : State) (lrx : Sample) : s.LinkOnly (s.receiverTurn lrx) :=
  (s.countGap_linkOnly.trans (State.sampleCharacter_linkOnly _ lrx)).trans (State.detectBreak_linkOnly _ lrx)

theorem State.transmitterTurn_linkOnly (s : State) (gapFirst : Bool) : s.LinkOnly (s.transmitterTurn gapFirst) := by
  unfold State.transmitterTurn
  split
  · rfl
  · split <;> rfl

theorem State.arrived_linkOnly (s : State) (r : Request) : s.LinkOnly (s.arrived r) := by
  unfold State.arrived
  split <;> rfl

theorem State.settleGap_linkOnly (s : State) : s.LinkOnly s.settleGap := rfl

/-- R153: what the free transmitter does: the oldest reply, else a report for a credit, else nothing. -/
theorem Link.transmitNext_cases (k : Link) (gapFirst : Bool) :
    (∃ f rest, k.replies = f :: rest ∧ k.transmitNext gapFirst = { k with replies := rest }.send f) ∨
    (k.replies = [] ∧ ∃ r rest, k.reports = r :: rest ∧ k.credit ≠ 0 ∧
      k.transmitNext gapFirst =
        ({ k with reports := rest, credit := k.credit - 1 }.send (reportFrame r)).tryGap gapFirst) ∨
    (k.replies = [] ∧ (k.reports = [] ∨ k.credit = 0) ∧ k.transmitNext gapFirst = { k with transmission := none }) := by
  unfold Link.transmitNext
  split
  · exact .inl ⟨_, _, ‹_›, rfl⟩
  · split
    · rename_i r rest e
      split
      · exact .inr (.inr ⟨‹_›, .inr ‹_›, rfl⟩)
      · exact .inr (.inl ⟨‹_›, r, rest, e, ‹_›, rfl⟩)
    · exact .inr (.inr ⟨‹_›, .inl ‹_›, rfl⟩)

end Sys2Proof.Machine
end

