-- ==== Sys2Proof/Laws/Owners.lean ====
section
/-! SUPPORT. What the block that owns a request can do to what it does not own: the clock, the outside and the link unit, where it
raises reports, sets the credit balance, or resets the link warm. -/

namespace Sys2Proof.Machine

/-- A property that each turn keeps is kept by all of them. -/
theorem foldl_keeps {α β : Type} {P : α → Prop} {f : α → β → α} (h : ∀ s x, P s → P (f s x)) (xs : List β) {s : α}
    (hs : P s) : P (xs.foldl f s) := by
  induction xs generalizing s with
  | nil => exact hs
  | cons x xs ih => exact ih (h s x hs)

/-! ### Entry into hold -/

/-- R132: an output channel in play is halted with a STATE report, any other channel is left alone. -/
theorem State.holdChannel_cases (s : State) (ch : ChannelId) :
    s.holdChannel ch = s ∨
    ∃ c, s.channels[ch] = some c ∧ c.isOutput = true ∧ c.inPlay = true ∧
      s.holdChannel ch = (s.setChannel ch (some (c.halt .hold))).report (.state ch .haltedHold s.time) := by
  unfold State.holdChannel
  split
  · exact .inl rfl
  · rename_i c e
    split
    · rename_i h
      exact .inr ⟨c, e, h.1, h.2, rfl⟩
    · exact .inl rfl

/-- A property that reports and halts of output channels keep is kept by the entry into hold. -/
theorem State.enterHold_keeps {P : State → Prop} (hr : ∀ s b, P s → P (s.report b))
    (hh : ∀ s ch c, s.channels[ch] = some c → c.isOutput = true → c.inPlay = true → P s →
      P (s.setChannel ch (some (c.halt .hold)))) {s : State} (cause : HoldCause) (h : P s) : P (s.enterHold cause) := by
  refine hr _ _ (foldl_keeps (fun s ch h => ?_) _ h)
  rcases s.holdChannel_cases ch with e | ⟨c, hc, ho, hp, e⟩ <;> rw [e]
  · exact h
  · exact hr _ _ (hh s ch c hc ho hp h)

@[simp] theorem State.enterHold_time (s : State) (cause : HoldCause) : (s.enterHold cause).time = s.time :=
  State.enterHold_keeps (P := fun t => t.time = s.time) (fun _ _ h => h) (fun _ _ _ _ _ _ h => h) cause rfl
@[simp] theorem State.enterHold_timebases (s : State) (cause : HoldCause) : (s.enterHold cause).timebases = s.timebases :=
  State.enterHold_keeps (P := fun t => t.timebases = s.timebases) (fun _ _ h => h) (fun _ _ _ _ _ _ h => h) cause rfl
@[simp] theorem State.enterHold_store (s : State) (cause : HoldCause) : (s.enterHold cause).store = s.store :=
  State.enterHold_keeps (P := fun t => t.store = s.store) (fun _ _ h => h) (fun _ _ _ _ _ _ h => h) cause rfl
@[simp] theorem State.enterHold_pinTable (s : State) (cause : HoldCause) : (s.enterHold cause).pinTable = s.pinTable :=
  State.enterHold_keeps (P := fun t => t.pinTable = s.pinTable) (fun _ _ h => h) (fun _ _ _ _ _ _ h => h) cause rfl
@[simp] theorem State.enterHold_fabric (s : State) (cause : HoldCause) : (s.enterHold cause).fabric = s.fabric :=
  State.enterHold_keeps (P := fun t => t.fabric = s.fabric) (fun _ _ h => h) (fun _ _ _ _ _ _ h => h) cause rfl
@[simp] theorem State.enterHold_hold (s : State) (cause : HoldCause) : (s.enterHold cause).hold = s.hold :=
  State.enterHold_keeps (P := fun t => t.hold = s.hold) (fun _ _ h => h) (fun _ _ _ _ _ _ h => h) cause rfl
@[simp] theorem State.enterHold_inColdReset (s : State) (cause : HoldCause) : (s.enterHold cause).inColdReset = s.inColdReset :=
  State.enterHold_keeps (P := fun t => t.inColdReset = s.inColdReset) (fun _ _ h => h) (fun _ _ _ _ _ _ h => h) cause rfl
@[simp] theorem State.enterHold_resetRun (s : State) (cause : HoldCause) : (s.enterHold cause).resetRun = s.resetRun :=
  State.enterHold_keeps (P := fun t => t.resetRun = s.resetRun) (fun _ _ h => h) (fun _ _ _ _ _ _ h => h) cause rfl
@[simp] theorem State.enterHold_script (s : State) (cause : HoldCause) : (s.enterHold cause).script = s.script :=
  State.enterHold_keeps (P := fun t => t.script = s.script) (fun _ _ h => h) (fun _ _ _ _ _ _ h => h) cause rfl
@[simp] theorem State.enterHold_unscripted (s : State) (cause : HoldCause) : (s.enterHold cause).unscripted = s.unscripted :=
  State.enterHold_keeps (P := fun t => t.unscripted = s.unscripted) (fun _ _ h => h) (fun _ _ _ _ _ _ h => h) cause rfl
@[simp] theorem State.enterHold_pending (s : State) (cause : HoldCause) : (s.enterHold cause).pending = s.pending :=
  State.enterHold_keeps (P := fun t => t.pending = s.pending) (fun _ _ h => h) (fun _ _ _ _ _ _ h => h) cause rfl

theorem State.enterHold_link (s : State) (cause : HoldCause) : s.link.Reported (s.enterHold cause).link :=
  State.enterHold_keeps (P := fun t => s.link.Reported t.link) (fun _ b h => h.append b) (fun _ _ _ _ _ _ h => h) cause
    (.refl _)

/-- R131: a change of the pin hold begins hold, ends it, or changes the pin hold alone. -/
theorem State.changePinHold_cases (s : State) :
    (s.hold.pinHold = .deasserted ∧ s.hold.request = false ∧
      s.changePinHold = (s.withPinHold .asserted).enterHold .pin) ∨
    (s.hold.pinHold = .asserted ∧ s.hold.request = false ∧
      s.changePinHold = (s.withPinHold .deasserted).exitHold .pin) ∨
    (s.hold.request = true ∧ ∃ p, s.changePinHold = s.withPinHold p) := by
  unfold State.changePinHold
  cases hp : s.hold.pinHold <;> cases hr : s.hold.request
  · exact .inl ⟨rfl, rfl, rfl⟩
  · exact .inr (.inr ⟨rfl, _, rfl⟩)
  · exact .inr (.inl ⟨rfl, rfl, rfl⟩)
  · exact .inr (.inr ⟨rfl, _, rfl⟩)

/-! ### Owners -/

/-- What an executed request can do to the link unit before its reply (R154, R156, R160). -/
inductive Link.Served (k : Link) : Link → Prop where
  | reported {k' : Link} (h : k.Reported k') : Link.Served k k'
  | credited (n : Nat) (h : n ≤ Config.maxCredit) : Link.Served k { k with credit := n }
  | warm : Link.Served k k.warmReset

theorem Link.Served.same (k : Link) : k.Served k := .reported (.refl k)

/-- What every executed request keeps. -/
structure State.Serves (s t : State) : Prop where
  time : t.time = s.time
  inColdReset : t.inColdReset = s.inColdReset
  resetRun : t.resetRun = s.resetRun
  script : t.script = s.script
  unscripted : t.unscripted = s.unscripted
  pending : t.pending = s.pending
  link : s.link.Served t.link

theorem State.Serves.refl (s : State) : State.Serves s s := ⟨rfl, rfl, rfl, rfl, rfl, rfl, .same _⟩

/-- An owner's answer, when it succeeds, serves. -/
def Owned (owner : List Byte → State → Answer) : Prop :=
  ∀ body s t results, owner body s = .succeed t results → s.Serves t

theorem queryDevice_owned : Owned queryDevice := by
  intro body s t results h
  unfold queryDevice at h
  repeat' split at h
  all_goals cases h
  all_goals exact ⟨rfl, rfl, rfl, rfl, rfl, rfl, .same _⟩

theorem readTime_owned : Owned readTime := by
  intro body s t results h
  unfold readTime at h
  repeat' split at h
  all_goals cases h
  all_goals exact ⟨rfl, rfl, rfl, rfl, rfl, rfl, .same _⟩

theorem grant_owned : Owned grant := by
  intro body s t results h
  unfold grant at h
  split at h
  · split at h
    · cases h
    · cases h
      exact ⟨rfl, rfl, rfl, rfl, rfl, rfl, .credited _ (Nat.min_le_right _ _)⟩
  · cases h

theorem deviceReset_owned : Owned deviceReset := by
  intro body s t results h
  unfold deviceReset at h
  split at h
  · cases h
    exact ⟨rfl, rfl, rfl, rfl, rfl, rfl, .warm⟩
  · cases h

theorem setTimebase_owned : Owned setTimebase := by
  intro body s t results h
  unfold setTimebase at h
  repeat' split at h
  all_goals cases h
  all_goals exact ⟨rfl, rfl, rfl, rfl, rfl, rfl, .same _⟩

theorem holdRequest_owned : Owned holdRequest := by
  intro body s t results h
  unfold holdRequest at h
  split at h
  · cases h
    split
    · exact ⟨rfl, rfl, rfl, rfl, rfl, rfl, .same _⟩
    · refine ⟨by simp, by simp, by simp, by simp, by simp, by simp, .reported ?_⟩
      exact State.enterHold_link (s.withHoldFlag true) .request
  · cases h

theorem releaseRequest_owned : Owned releaseRequest := by
  intro body s t results h
  unfold releaseRequest at h
  split at h
  · cases h
    split
    · exact ⟨rfl, rfl, rfl, rfl, rfl, rfl, .reported ((Link.Reported.refl _).append _)⟩
    · exact ⟨rfl, rfl, rfl, rfl, rfl, rfl, .same _⟩
  · cases h

theorem definePattern_owned : Owned definePattern := by
  intro body s t results h
  unfold definePattern at h
  repeat' split at h
  all_goals cases h
  all_goals exact ⟨rfl, rfl, rfl, rfl, rfl, rfl, .same _⟩

theorem deletePattern_owned : Owned deletePattern := by
  intro body s t results h
  unfold deletePattern at h
  repeat' split at h
  all_goals cases h
  all_goals exact ⟨rfl, rfl, rfl, rfl, rfl, rfl, .same _⟩

theorem queryPattern_owned : Owned queryPattern := by
  intro body s t results h
  unfold queryPattern at h
  repeat' split at h
  all_goals cases h
  all_goals exact ⟨rfl, rfl, rfl, rfl, rfl, rfl, .same _⟩

theorem bind_owned : Owned bind := by
  intro body s t results h
  unfold bind at h
  repeat' split at h
  all_goals cases h
  all_goals exact ⟨rfl, rfl, rfl, rfl, rfl, rfl, .same _⟩

theorem unbind_owned : Owned unbind := by
  intro body s t results h
  unfold unbind at h
  repeat' split at h
  all_goals cases h
  all_goals exact ⟨rfl, rfl, rfl, rfl, rfl, rfl, .same _⟩

theorem freeze_owned : Owned freeze := by
  intro body s t results h
  unfold freeze at h
  repeat' split at h
  all_goals cases h
  all_goals exact ⟨rfl, rfl, rfl, rfl, rfl, rfl, .same _⟩

theorem clearChannel_owned : Owned clearChannel := by
  intro body s t results h
  unfold clearChannel at h
  repeat' split at h
  all_goals cases h
  all_goals exact ⟨rfl, rfl, rfl, rfl, rfl, rfl, .same _⟩

theorem queryChannel_owned : Owned queryChannel := by
  intro body s t results h
  unfold queryChannel at h
  repeat' split at h
  all_goals cases h
  all_goals exact ⟨rfl, rfl, rfl, rfl, rfl, rfl, .same _⟩

theorem configureOutput_owned : Owned configureOutput := by
  intro body s t results h
  unfold configureOutput at h
  repeat' split at h
  all_goals cases h
  all_goals exact ⟨rfl, rfl, rfl, rfl, rfl, rfl, .same _⟩

theorem configureInput_owned : Owned configureInput := by
  intro body s t results h
  unfold configureInput at h
  repeat' split at h
  all_goals cases h
  all_goals exact ⟨rfl, rfl, rfl, rfl, rfl, rfl, .same _⟩

theorem assign_owned : Owned assign := by
  intro body s t results h
  unfold assign State.assignTo at h
  repeat' split at h
  all_goals cases h
  all_goals exact ⟨rfl, rfl, rfl, rfl, rfl, rfl, .same _⟩

theorem unstage_owned : Owned unstage := by
  intro body s t results h
  unfold unstage at h
  repeat' split at h
  all_goals cases h
  all_goals exact ⟨rfl, rfl, rfl, rfl, rfl, rfl, .same _⟩

theorem start_owned : Owned start := by
  intro body s t results h
  unfold start at h
  repeat' split at h
  all_goals cases h
  · unfold State.startOutput
    split
    · exact ⟨rfl, rfl, rfl, rfl, rfl, rfl, .same _⟩
    · exact ⟨rfl, rfl, rfl, rfl, rfl, rfl, .reported ((Link.Reported.refl _).append _)⟩
  · exact ⟨rfl, rfl, rfl, rfl, rfl, rfl, .same _⟩

theorem stop_owned : Owned stop := by
  intro body s t results h
  unfold stop at h
  repeat' split at h
  all_goals cases h
  all_goals exact ⟨rfl, rfl, rfl, rfl, rfl, rfl, .same _⟩

theorem setEmitter_owned : Owned setEmitter := by
  intro body s t results h
  unfold setEmitter at h
  repeat' split at h
  all_goals cases h
  all_goals exact ⟨rfl, rfl, rfl, rfl, rfl, rfl, .same _⟩

theorem clearEmitter_owned : Owned clearEmitter := by
  intro body s t results h
  unfold clearEmitter at h
  repeat' split at h
  all_goals cases h
  all_goals exact ⟨rfl, rfl, rfl, rfl, rfl, rfl, .same _⟩

theorem addListener_owned : Owned addListener := by
  intro body s t results h
  unfold addListener at h
  repeat' split at h
  all_goals cases h
  all_goals exact ⟨rfl, rfl, rfl, rfl, rfl, rfl, .same _⟩

theorem removeListener_owned : Owned removeListener := by
  intro body s t results h
  unfold removeListener at h
  repeat' split at h
  all_goals cases h
  all_goals exact ⟨rfl, rfl, rfl, rfl, rfl, rfl, .same _⟩

theorem queryFabric_owned : Owned queryFabric := by
  intro body s t results h
  unfold queryFabric at h
  repeat' split at h
  all_goals cases h
  all_goals exact ⟨rfl, rfl, rfl, rfl, rfl, rfl, .same _⟩

end Sys2Proof.Machine
end

