-- ==== Sys2Proof/Laws/Succeed.lean ====
section
/-! SUPPORT. When an owner's answer succeeds: what held of the state, and what state it leaves. -/

namespace Sys2Proof.Machine

variable {body : List Byte} {s t : State} {results : List Byte}

theorem queryDevice_succeeds (h : queryDevice body s = .succeed t results) : t = s := by
  unfold queryDevice at h
  split at h <;> cases h
  rfl

theorem readTime_succeeds (h : readTime body s = .succeed t results) : t = s := by
  unfold readTime at h
  split at h <;> cases h
  rfl

theorem queryPattern_succeeds (h : queryPattern body s = .succeed t results) : t = s := by
  unfold queryPattern at h
  repeat' split at h
  all_goals cases h
  all_goals rfl

theorem queryChannel_succeeds (h : queryChannel body s = .succeed t results) : t = s := by
  unfold queryChannel at h
  repeat' split at h
  all_goals cases h
  all_goals rfl

theorem queryFabric_succeeds (h : queryFabric body s = .succeed t results) : t = s := by
  unfold queryFabric at h
  split at h <;> cases h
  rfl

theorem grant_succeeds (h : grant body s = .succeed t results) :
    ∃ n : Nat, 0 < n ∧ n ≤ Config.maxCredit ∧
      t = { s with link := { s.link with credit := min (s.link.credit + n) Config.maxCredit } } := by
  unfold grant at h
  split at h
  · split at h
    · cases h
    · cases h
      exact ⟨_, by omega, by omega, rfl⟩
  · cases h

theorem deviceReset_succeeds (h : deviceReset body s = .succeed t results) : t = s.warmReset := by
  unfold deviceReset at h
  split at h <;> cases h
  rfl

theorem number2_lt (hi lo : Byte) : number2 hi lo < 65536 := by
  have := hi.isLt
  have := lo.isLt
  unfold number2
  omega

theorem setTimebase_succeeds (h : setTimebase body s = .succeed t results) :
    ∃ (tb : TimebaseId) (d : Nat), 1 ≤ d ∧ d ≤ 65536 ∧ s.anyOn tb Channel.frozen = false ∧ s.anyOn tb Channel.inPlay = false ∧
      t = { s with timebases := s.timebases.set tb (s.timebases[tb].restart d) } := by
  unfold setTimebase at h
  split at h
  · rename_i d1 d0
    split at h
    · cases h
    · split at h
      · cases h
      · split at h
        · cases h
        · cases h
          have := number2_lt d1 d0
          exact ⟨_, _, by omega, by omega, by simpa using ‹¬ s.anyOn _ Channel.frozen = true›,
            by simpa using ‹¬ s.anyOn _ Channel.inPlay = true›, rfl⟩
  · cases h

theorem holdRequest_succeeds (h : holdRequest body s = .succeed t results) :
    (s.holdActive = true ∧ t = s.withHoldFlag true) ∨
    (s.holdActive = false ∧ t = (s.withHoldFlag true).enterHold .request) := by
  unfold holdRequest at h
  split at h
  · obtain ⟨rfl, -⟩ := Answer.succeed.inj h
    cases s.holdActive
    · exact .inr ⟨rfl, rfl⟩
    · exact .inl ⟨rfl, rfl⟩
  · cases h

theorem releaseRequest_succeeds (h : releaseRequest body s = .succeed t results) :
    (s.hold.request = true ∧ s.hold.pinHold = .deasserted ∧ t = (s.withHoldFlag false).exitHold .request) ∨
    (¬ (s.hold.request = true ∧ s.hold.pinHold = .deasserted) ∧ t = s.withHoldFlag false) := by
  unfold releaseRequest at h
  split at h
  · obtain ⟨rfl, -⟩ := Answer.succeed.inj h
    by_cases g : s.hold.request = true ∧ s.hold.pinHold = .deasserted
    · exact .inl ⟨g.1, g.2, if_pos g⟩
    · exact .inr ⟨g, if_neg g⟩
  · cases h

/-! ### Pattern store -/

/-- The three bytes of a segment name a duration of 1–65536 (R1). -/
theorem segmentOf_duration {a b c : Byte} {g : Segment} (h : segmentOf a b c = some g) :
    1 ≤ g.duration ∧ g.duration ≤ 65536 := by
  unfold segmentOf at h
  split at h
  · cases h
  · cases h
    have := number2_lt a b
    exact ⟨by dsimp only; omega, by dsimp only; omega⟩

/-- A list of segments takes three bytes each, and every duration is in range. -/
theorem segmentsOf_sound : ∀ {bytes : List Byte} {gs : List Segment}, segmentsOf bytes = some gs →
    bytes.length = 3 * gs.length ∧ ∀ g ∈ gs, 1 ≤ g.duration ∧ g.duration ≤ 65536
  | [], gs, h => by
    cases h
    exact ⟨rfl, by simp⟩
  | [_], gs, h => by simp [segmentsOf] at h
  | [_, _], gs, h => by simp [segmentsOf] at h
  | a :: b :: c :: rest, gs, h => by
    unfold segmentsOf at h
    split at h
    · rename_i g gs' hg hgs
      cases h
      obtain ⟨hl, hd⟩ := segmentsOf_sound hgs
      refine ⟨by simp [hl]; omega, ?_⟩
      intro x hx
      rcases List.mem_cons.mp hx with rfl | hx
      · exact segmentOf_duration hg
      · exact hd x hx
    · cases h

/-- The pattern of a DEFINE_PATTERN body that passes R6 and R7 is within its ranges (R1, R2). -/
theorem patternOf_sound {i : PatternId} {p : Pattern} (h : patternOf body = .ok (i, p)) : p.Sound := by
  unfold patternOf at h
  split at h
  · rename_i id r1 r0 rest count segs
    split at h
    · cases h
    · split at h
      · cases h
      · split at h
        · rename_i _ _ _ _ _ gs _ _ hs
          cases h
          obtain ⟨hl, hd⟩ := segmentsOf_sound hs
          have := number2_lt r1 r0
          simp only [List.length_cons] at *
          exact ⟨by dsimp only; omega, by dsimp only; omega, by dsimp only; omega, hd⟩
        · cases h
  · cases h

theorem definePattern_succeeds (h : definePattern body s = .succeed t results) :
    ∃ (i : PatternId) (p : Pattern), p.Sound ∧ (s.store.rows[i].pattern = none ∨ s.store.rows[i].users = 0) ∧
      p.segments.length ≤ s.store.free + s.store.rows[i].slots ∧ t = { s with store := s.store.define i p } := by
  unfold definePattern at h
  split at h
  · cases h
  · rename_i i p e
    split at h
    · cases h
    · rename_i hu
      split at h
      · cases h
      · cases h
        refine ⟨i, p, patternOf_sound e, ?_, by omega, rfl⟩
        by_cases g : s.store.rows[i].pattern = none
        · exact .inl g
        · exact .inr (Nat.eq_zero_of_not_pos fun k => hu ⟨g, k⟩)

theorem deletePattern_succeeds (h : deletePattern body s = .succeed t results) :
    ∃ i : PatternId, s.store.rows[i].pattern ≠ none ∧ s.store.rows[i].users = 0 ∧
      t = { s with store := s.store.delete i } := by
  unfold deletePattern at h
  split at h
  · split at h
    · cases h
    · split at h
      · cases h
      · split at h
        · cases h
        · cases h
          exact ⟨_, ‹_›, by omega, rfl⟩
  · cases h

/-! ### Channel array -/

theorem roleOf_cases {b : Byte} {r : Role} (h : roleOf b = some r) :
    r = .output (OutputRole.fresh .low) ∨ r = .input InputRole.fresh := by
  unfold roleOf at h
  split at h
  · cases h; exact .inl rfl
  · split at h
    · cases h; exact .inr rfl
    · cases h

theorem bind_succeeds (h : bind body s = .succeed t results) :
    ∃ (ch : ChannelId) (r : Role) (p : PinId) (tb : TimebaseId),
      (r = .output (OutputRole.fresh .low) ∨ r = .input InputRole.fresh) ∧ s.channels[ch] = none ∧ s.pinTable[p] = none ∧
      t = { s with pinTable := s.pinTable.set p (some ch)
                   channels := s.channels.set ch (some (Channel.bound r p tb s.time)) } := by
  unfold bind at h
  split at h
  · split at h
    · split at h
      · split at h <;> cases h
      · split at h
        · cases h
        · cases h
          exact ⟨_, _, _, _, roleOf_cases ‹_›, ‹_›, not_not.mp ‹_›, rfl⟩
    · cases h
  · cases h

theorem unbind_succeeds (h : unbind body s = .succeed t results) :
    ∃ (ch : ChannelId) (c : Channel), s.channels[ch] = some c ∧ c.frozen = false ∧ c.inPlay = false ∧
      t = s.freeChannel ch c := by
  unfold unbind at h
  split at h
  · split at h
    · cases h
    · split at h
      · cases h
      · rename_i c e
        split at h
        · cases h
        · split at h
          · cases h
          · cases h
            exact ⟨_, c, e, by simpa using ‹¬ c.frozen = true›, by simpa using ‹¬ c.inPlay = true›, rfl⟩
  · cases h

theorem freeze_succeeds (h : freeze body s = .succeed t results) :
    ∃ (ch : ChannelId) (c : Channel), s.channels[ch] = some c ∧
      t = s.setChannel ch (some { c with frozen := true }) := by
  unfold freeze at h
  split at h
  · split at h
    · cases h
    · split at h
      · cases h
      · cases h
        exact ⟨_, _, ‹_›, rfl⟩
  · cases h

theorem clearChannel_succeeds (h : clearChannel body s = .succeed t results) :
    ∃ (ch : ChannelId) (c : Channel), s.channels[ch] = some c ∧
      ((c.frozen = true ∧
        t = { s with store := s.store.releaseRole c.role }.setChannel ch (some (c.cleared s.time))) ∨
       (c.frozen = false ∧ t = s.freeChannel ch c)) := by
  unfold clearChannel at h
  split at h
  · split at h
    · cases h
    · split at h
      · cases h
      · rename_i c e
        split at h
        · cases h
          exact ⟨_, c, e, .inl ⟨‹_›, rfl⟩⟩
        · cases h
          exact ⟨_, c, e, .inr ⟨by simpa using ‹¬ c.frozen = true›, rfl⟩⟩
  · cases h

theorem configureOutput_succeeds (h : configureOutput body s = .succeed t results) :
    ∃ (ch : ChannelId) (c : Channel) (o : OutputRole) (l : Level), s.channels[ch] = some c ∧ c.role = .output o ∧
      c.frozen = false ∧ c.inPlay = false ∧
      t = s.setChannel ch (some { c with role := .output { o with idleLevel := l } }) := by
  unfold configureOutput at h
  split at h
  · split at h
    · split at h
      · cases h
      · rename_i c e
        split at h
        · cases h
        · split at h
          · cases h
          · split at h
            · cases h
            · cases h
              exact ⟨_, c, _, _, e, ‹_›, by simpa using ‹¬ c.frozen = true›, by simpa using ‹¬ c.inPlay = true›, rfl⟩
    · cases h
  · cases h

theorem configureInput_succeeds (h : configureInput body s = .succeed t results) :
    ∃ (ch : ChannelId) (c : Channel) (i j : InputRole), s.channels[ch] = some c ∧ c.role = .input i ∧
      c.frozen = false ∧ c.inPlay = false ∧ t = s.setChannel ch (some { c with role := .input j }) ∧
      j = { i with edgeSelect := j.edgeSelect, window := j.window, timeoutWindow := j.timeoutWindow,
                   timeoutAction := j.timeoutAction, mode := j.mode, limit := j.limit } := by
  unfold configureInput at h
  split at h
  · split at h
    · split at h
      · cases h
      · rename_i c e
        split at h
        · cases h
        · split at h
          · cases h
          · split at h
            · cases h
            · cases h
              exact ⟨_, c, _, _, e, ‹_›, by simpa using ‹¬ c.frozen = true›, by simpa using ‹¬ c.inPlay = true›, rfl, rfl⟩
    · cases h
  · cases h

theorem assign_succeeds (h : assign body s = .succeed t results) :
    ∃ (ch : ChannelId) (c : Channel) (o : OutputRole) (p : PatternId) (w : SwapPoint), s.channels[ch] = some c ∧
      c.role = .output o ∧ s.store.rows[p].pattern ≠ none ∧
      ((c.activity = .running ∧
        t = { s with store := (s.store.retain p).releaseField (o.staged.map Staged.pattern) }.setChannel ch
          (some { c with role := .output (o.assignStaged p w) })) ∨
       (c.activity ≠ .running ∧
        t = { s with store := (s.store.retain p).releaseRole (.output o) }.setChannel ch
          (some { c with role := .output (o.assignActive p) }))) := by
  unfold assign at h
  split at h
  · split at h
    · rename_i ch p w _ _ _
      split at h
      · cases h
      · rename_i c e
        split at h
        · cases h
        · split at h
          · cases h
          · unfold State.assignTo at h
            dsimp only at h
            by_cases g : c.activity = .running
            · rw [if_pos g] at h
              cases h
              exact ⟨ch, c, _, p, w, e, ‹_›, ‹_›, .inl ⟨g, rfl⟩⟩
            · rw [if_neg g] at h
              cases h
              exact ⟨ch, c, _, p, w, e, ‹_›, ‹_›, .inr ⟨g, rfl⟩⟩
    · cases h
  · cases h

theorem unstage_succeeds (h : unstage body s = .succeed t results) :
    ∃ (ch : ChannelId) (c : Channel) (o : OutputRole) (g : Staged), s.channels[ch] = some c ∧ c.role = .output o ∧
      o.staged = some g ∧
      t = { s with store := s.store.release g.pattern }.setChannel ch
        (some { c with role := .output { o with staged := none } }) := by
  unfold unstage at h
  split at h
  · split at h
    · cases h
    · split at h
      · cases h
      · rename_i c e
        split at h
        · cases h
        · split at h
          · cases h
          · cases h
            exact ⟨_, c, _, _, e, ‹_›, ‹_›, rfl⟩
  · cases h

/-- The fields of a START set rearm only with TRIGGER (R41). -/
theorem startFieldsOf_rearm {now : Time} {f : StartFields} (h : startFieldsOf body now = .ok f) :
    f.rearm = true → f.condition = .trigger := by
  unfold startFieldsOf at h
  repeat' split at h
  all_goals cases h
  all_goals simp_all

theorem start_succeeds (h : start body s = .succeed t results) :
    ∃ (f : StartFields) (c : Channel), s.channels[f.ch] = some c ∧ c.inPlay = false ∧
      (f.rearm = true → f.condition = .trigger) ∧ f.condition.late s.time = false ∧
      ((∃ o, c.role = .output o ∧ s.holdActive = false ∧ (o.active ≠ none ∨ o.staged ≠ none) ∧ t = s.startOutput f c o) ∨
       (∃ i, c.role = .input i ∧ t = s.setChannel f.ch (some (c.started f (.input i.cleared))))) := by
  unfold start at h
  split at h
  · cases h
  · rename_i f e
    split at h
    · cases h
    · rename_i c hc
      split at h
      · rename_i o ho
        split at h
        · cases h
        · split at h
          · cases h
          · split at h
            · cases h
            · split at h
              · cases h
              · cases h
                refine ⟨f, c, hc, by simpa using ‹¬ c.inPlay = true›, startFieldsOf_rearm e,
                  by simpa using ‹¬ f.condition.late s.time = true›,
                  .inl ⟨o, ho, by simpa using ‹¬ s.holdActive = true›, ?_, rfl⟩⟩
                by_cases g : o.active = none
                · exact .inr fun k => ‹¬ (o.active = none ∧ o.staged = none)› ⟨g, k⟩
                · exact .inl g
      · rename_i i hi
        split at h
        · cases h
        · split at h
          · cases h
          · cases h
            exact ⟨f, c, hc, by simpa using ‹¬ c.inPlay = true›, startFieldsOf_rearm e,
              by simpa using ‹¬ f.condition.late s.time = true›, .inr ⟨i, hi, rfl⟩⟩

theorem stop_succeeds (h : stop body s = .succeed t results) :
    ∃ (ch : ChannelId) (c : Channel), s.channels[ch] = some c ∧
      ((c.inPlay = true ∧ t = s.setChannel ch (some (c.halt .request))) ∨ (c.inPlay = false ∧ t = s)) := by
  unfold stop at h
  split at h
  · split at h
    · cases h
    · split at h
      · cases h
      · rename_i c e
        cases g : c.inPlay
        · rw [g] at h
          cases h
          exact ⟨_, c, e, .inr ⟨g, rfl⟩⟩
        · rw [g] at h
          cases h
          exact ⟨_, c, e, .inl ⟨g, rfl⟩⟩
  · cases h

/-! ### Event fabric -/

theorem setEmitter_succeeds (h : setEmitter body s = .succeed t results) :
    ∃ (l : LineId) (e : Emitter) (c : Channel), s.channels[e.source] = some c ∧ c.role.raises e.kind = true ∧
      c.frozen = false ∧ s.fabric.emitters[l] = none ∧ t = { s with fabric := s.fabric.withEmitter l (some e) } := by
  unfold setEmitter at h
  split at h
  · split at h
    · rename_i l ch k r _ _ _ _
      split at h
      · cases h
      · rename_i hr
        split at h
        · cases h
        · rename_i hf
          split at h
          · cases h
          · split at h
            · cases h
            · cases h
              obtain ⟨c, hc⟩ := Option.ne_none_iff_exists'.mp ‹¬ s.channels[ch] = none›
              refine ⟨l, ⟨ch, k, r⟩, c, hc, ?_, ?_, not_not.mp ‹_›, rfl⟩
              · simpa [State.wrongKind, hc] using hr
              · simp only [Bool.or_eq_true, not_or, State.isFrozen, hc] at hf
                simpa using hf.1
    · cases h
  · cases h

theorem clearEmitter_succeeds (h : clearEmitter body s = .succeed t results) :
    ∃ (l : LineId) (e : Emitter), s.fabric.emitters[l] = some e ∧ s.isFrozen e.source = false ∧
      t = { s with fabric := s.fabric.withEmitter l none } := by
  unfold clearEmitter at h
  split at h
  · split at h
    · cases h
    · split at h
      · cases h
      · split at h
        · cases h
        · cases h
          exact ⟨_, _, ‹_›, by simpa using ‹¬ s.isFrozen _ = true›, rfl⟩
  · cases h

theorem addListener_succeeds (h : addListener body s = .succeed t results) :
    ∃ (l : LineId) (ch : ChannelId) (a : Action) (c : Channel), s.channels[ch] = some c ∧ c.role.accepts a = true ∧
      c.frozen = false ∧ s.fabric.listeners[l][ch] = none ∧ s.fabric.entries.length < Config.listenerEntries ∧
      t = { s with fabric := s.fabric.withListener l ch (some a) } := by
  unfold addListener at h
  split at h
  · split at h
    · rename_i l ch a _ _ _
      split at h
      · cases h
      · rename_i c e
        split at h
        · cases h
        · split at h
          · cases h
          · split at h
            · cases h
            · split at h
              · cases h
              · cases h
                exact ⟨l, ch, a, c, e, by simpa using ‹¬ c.role.accepts a = false›, by simpa using ‹¬ c.frozen = true›,
                  not_not.mp ‹_›, by omega, rfl⟩
    · cases h
  · cases h

theorem removeListener_succeeds (h : removeListener body s = .succeed t results) :
    ∃ (l : LineId) (ch : ChannelId) (a : Action), s.fabric.listeners[l][ch] = some a ∧ s.isFrozen ch = false ∧
      t = { s with fabric := s.fabric.withListener l ch none } := by
  unfold removeListener at h
  split at h
  · split at h
    · split at h
      · cases h
      · split at h
        · cases h
        · cases h
          exact ⟨_, _, _, ‹_›, by simpa using ‹¬ s.isFrozen _ = true›, rfl⟩
    · cases h
  · cases h

/-! ### Every effect of an executed request -/

/-- The owners of the requests. -/
def owners : List (List Byte → State → Answer) :=
  [queryDevice, readTime, grant, deviceReset, setTimebase, holdRequest, releaseRequest, definePattern, deletePattern,
    queryPattern, bind, unbind, configureOutput, configureInput, freeze, clearChannel, queryChannel, assign, unstage,
    start, stop, setEmitter, clearEmitter, addListener, removeListener, queryFabric]

/-- Everything that an executed request can do before its reply, with what held of the state. -/
inductive State.Effect (s : State) : State → Prop where
  | same : State.Effect s s
  | credit (n : Nat) (h : n ≤ Config.maxCredit) : State.Effect s { s with link := { s.link with credit := n } }
  | warm : State.Effect s s.warmReset
  | timebase (tb : TimebaseId) (d : Nat) (lo : 1 ≤ d) (hi : d ≤ 65536) (unfrozen : s.anyOn tb Channel.frozen = false)
      (resting : s.anyOn tb Channel.inPlay = false) :
      State.Effect s { s with timebases := s.timebases.set tb (s.timebases[tb].restart d) }
  | holdOn (h : s.holdActive = true) : State.Effect s (s.withHoldFlag true)
  | holdEntry (h : s.holdActive = false) : State.Effect s ((s.withHoldFlag true).enterHold .request)
  | holdExit (h : s.hold.request = true) (g : s.hold.pinHold = .deasserted) :
      State.Effect s ((s.withHoldFlag false).exitHold .request)
  | release (h : ¬ (s.hold.request = true ∧ s.hold.pinHold = .deasserted)) : State.Effect s (s.withHoldFlag false)
  | define (i : PatternId) (p : Pattern) (sound : p.Sound)
      (unused : s.store.rows[i].pattern = none ∨ s.store.rows[i].users = 0)
      (room : p.segments.length ≤ s.store.free + s.store.rows[i].slots) :
      State.Effect s { s with store := s.store.define i p }
  | delete (i : PatternId) (defined : s.store.rows[i].pattern ≠ none) (unused : s.store.rows[i].users = 0) :
      State.Effect s { s with store := s.store.delete i }
  | bind (ch : ChannelId) (r : Role) (p : PinId) (tb : TimebaseId)
      (role : r = .output (OutputRole.fresh .low) ∨ r = .input InputRole.fresh) (isFree : s.channels[ch] = none)
      (pinFree : s.pinTable[p] = none) :
      State.Effect s { s with pinTable := s.pinTable.set p (some ch)
                              channels := s.channels.set ch (some (Channel.bound r p tb s.time)) }
  | becomesFree (ch : ChannelId) (c : Channel) (e : s.channels[ch] = some c) (unfrozen : c.frozen = false) :
      State.Effect s (s.freeChannel ch c)
  | freeze (ch : ChannelId) (c : Channel) (e : s.channels[ch] = some c) :
      State.Effect s (s.setChannel ch (some { c with frozen := true }))
  | clear (ch : ChannelId) (c : Channel) (e : s.channels[ch] = some c) (frozen : c.frozen = true) :
      State.Effect s ({ s with store := s.store.releaseRole c.role }.setChannel ch (some (c.cleared s.time)))
  | idleLevel (ch : ChannelId) (c : Channel) (o : OutputRole) (l : Level) (e : s.channels[ch] = some c)
      (role : c.role = .output o) (unfrozen : c.frozen = false) (resting : c.inPlay = false) :
      State.Effect s (s.setChannel ch (some { c with role := .output { o with idleLevel := l } }))
  | inputSettings (ch : ChannelId) (c : Channel) (i j : InputRole) (e : s.channels[ch] = some c) (role : c.role = .input i)
      (unfrozen : c.frozen = false) (resting : c.inPlay = false)
      (progress : j = { i with edgeSelect := j.edgeSelect, window := j.window, timeoutWindow := j.timeoutWindow,
                               timeoutAction := j.timeoutAction, mode := j.mode, limit := j.limit }) :
      State.Effect s (s.setChannel ch (some { c with role := .input j }))
  | stage (ch : ChannelId) (c : Channel) (o : OutputRole) (p : PatternId) (w : SwapPoint) (e : s.channels[ch] = some c)
      (role : c.role = .output o) (defined : s.store.rows[p].pattern ≠ none) (running : c.activity = .running) :
      State.Effect s ({ s with store := (s.store.retain p).releaseField (o.staged.map Staged.pattern) }.setChannel ch
        (some { c with role := .output (o.assignStaged p w) }))
  | activate (ch : ChannelId) (c : Channel) (o : OutputRole) (p : PatternId) (e : s.channels[ch] = some c)
      (role : c.role = .output o) (defined : s.store.rows[p].pattern ≠ none) (notRunning : c.activity ≠ .running) :
      State.Effect s ({ s with store := (s.store.retain p).releaseRole (.output o) }.setChannel ch
        (some { c with role := .output (o.assignActive p) }))
  | unstage (ch : ChannelId) (c : Channel) (o : OutputRole) (g : Staged) (e : s.channels[ch] = some c)
      (role : c.role = .output o) (staged : o.staged = some g) :
      State.Effect s ({ s with store := s.store.release g.pattern }.setChannel ch
        (some { c with role := .output { o with staged := none } }))
  | startOutput (f : StartFields) (c : Channel) (o : OutputRole) (e : s.channels[f.ch] = some c) (role : c.role = .output o)
      (rearm : f.rearm = true → f.condition = .trigger) (notHeld : s.holdActive = false) (resting : c.inPlay = false)
      (pattern : o.active ≠ none ∨ o.staged ≠ none) : State.Effect s (s.startOutput f c o)
  | startInput (f : StartFields) (c : Channel) (i : InputRole) (e : s.channels[f.ch] = some c) (role : c.role = .input i)
      (rearm : f.rearm = true → f.condition = .trigger) (resting : c.inPlay = false) :
      State.Effect s (s.setChannel f.ch (some (c.started f (.input i.cleared))))
  | stop (ch : ChannelId) (c : Channel) (e : s.channels[ch] = some c) (inPlay : c.inPlay = true) :
      State.Effect s (s.setChannel ch (some (c.halt .request)))
  | emitter (l : LineId) (e : Emitter) (c : Channel) (bound : s.channels[e.source] = some c)
      (valid : c.role.raises e.kind = true) (unfrozen : c.frozen = false) (isFree : s.fabric.emitters[l] = none) :
      State.Effect s { s with fabric := s.fabric.withEmitter l (some e) }
  | noEmitter (l : LineId) (e : Emitter) (present : s.fabric.emitters[l] = some e)
      (unfrozen : s.isFrozen e.source = false) : State.Effect s { s with fabric := s.fabric.withEmitter l none }
  | listener (l : LineId) (ch : ChannelId) (a : Action) (c : Channel) (bound : s.channels[ch] = some c)
      (valid : c.role.accepts a = true) (unfrozen : c.frozen = false) (isFree : s.fabric.listeners[l][ch] = none)
      (room : s.fabric.entries.length < Config.listenerEntries) :
      State.Effect s { s with fabric := s.fabric.withListener l ch (some a) }
  | noListener (l : LineId) (ch : ChannelId) (a : Action) (present : s.fabric.listeners[l][ch] = some a)
      (unfrozen : s.isFrozen ch = false) : State.Effect s { s with fabric := s.fabric.withListener l ch none }

/-- Whatever request succeeds, its effect is one of these. -/
theorem owner_effect {o : List Byte → State → Answer} (ho : o ∈ owners) (h : o body s = .succeed t results) :
    s.Effect t := by
  simp only [owners, List.mem_cons, List.not_mem_nil, or_false] at ho
  rcases ho with rfl | rfl | rfl | rfl | rfl | rfl | rfl | rfl | rfl | rfl | rfl | rfl | rfl | rfl | rfl | rfl | rfl |
    rfl | rfl | rfl | rfl | rfl | rfl | rfl | rfl | rfl
  · rw [queryDevice_succeeds h]; exact .same
  · rw [readTime_succeeds h]; exact .same
  · obtain ⟨n, -, -, rfl⟩ := grant_succeeds h
    exact .credit _ (Nat.min_le_right _ _)
  · rw [deviceReset_succeeds h]; exact .warm
  · obtain ⟨tb, d, lo, hi, f, p, rfl⟩ := setTimebase_succeeds h
    exact .timebase tb d lo hi f p
  · rcases holdRequest_succeeds h with ⟨g, rfl⟩ | ⟨g, rfl⟩
    · exact .holdOn g
    · exact .holdEntry g
  · rcases releaseRequest_succeeds h with ⟨f, g, rfl⟩ | ⟨g, rfl⟩
    · exact .holdExit f g
    · exact .release g
  · obtain ⟨i, p, hs, hu, hr, rfl⟩ := definePattern_succeeds h
    exact .define i p hs hu hr
  · obtain ⟨i, hd, hu, rfl⟩ := deletePattern_succeeds h
    exact .delete i hd hu
  · rw [queryPattern_succeeds h]; exact .same
  · obtain ⟨ch, r, p, tb, hr, hc, hp, rfl⟩ := bind_succeeds h
    exact .bind ch r p tb hr hc hp
  · obtain ⟨ch, c, e, f, -, rfl⟩ := unbind_succeeds h
    exact .becomesFree ch c e f
  · obtain ⟨ch, c, o, l, e, r, f, p, rfl⟩ := configureOutput_succeeds h
    exact .idleLevel ch c o l e r f p
  · obtain ⟨ch, c, i, j, e, r, f, p, rfl, q⟩ := configureInput_succeeds h
    exact .inputSettings ch c i j e r f p q
  · obtain ⟨ch, c, e, rfl⟩ := freeze_succeeds h
    exact .freeze ch c e
  · obtain ⟨ch, c, e, ⟨f, rfl⟩ | ⟨f, rfl⟩⟩ := clearChannel_succeeds h
    · exact .clear ch c e f
    · exact .becomesFree ch c e f
  · rw [queryChannel_succeeds h]; exact .same
  · obtain ⟨ch, c, o, p, w, e, r, d, ⟨a, rfl⟩ | ⟨a, rfl⟩⟩ := assign_succeeds h
    · exact .stage ch c o p w e r d a
    · exact .activate ch c o p e r d a
  · obtain ⟨ch, c, o, g, e, r, q, rfl⟩ := unstage_succeeds h
    exact .unstage ch c o g e r q
  · obtain ⟨f, c, e, p, r, -, ⟨o, ro, hh, q, rfl⟩ | ⟨i, ro, rfl⟩⟩ := start_succeeds h
    · exact .startOutput f c o e ro r hh p q
    · exact .startInput f c i e ro r p
  · obtain ⟨ch, c, e, ⟨p, rfl⟩ | ⟨p, rfl⟩⟩ := stop_succeeds h
    · exact .stop ch c e p
    · exact .same
  · obtain ⟨l, e, c, hc, hv, hf, hl, rfl⟩ := setEmitter_succeeds h
    exact .emitter l e c hc hv hf hl
  · obtain ⟨l, e, he, hf, rfl⟩ := clearEmitter_succeeds h
    exact .noEmitter l e he hf
  · obtain ⟨l, ch, a, c, hc, hv, hf, hl, hr, rfl⟩ := addListener_succeeds h
    exact .listener l ch a c hc hv hf hl hr
  · obtain ⟨l, ch, a, ha, hf, rfl⟩ := removeListener_succeeds h
    exact .noListener l ch a ha hf
  · rw [queryFabric_succeeds h]; exact .same

end Sys2Proof.Machine
end

