-- ==== Sys2Proof/Laws/Invariant.lean ====
section
/-! SUPPORT. How an invariant of the blocks behind the link unit is shown to survive every step: the serial rows do not touch them, so
it is enough that every effect of a request, every channel tick, a change of the pin hold, the clock and the resets keep it. -/

namespace Sys2Proof.Machine

/-- Two states agree in every block behind the link unit. -/
structure State.SameBlocks (s t : State) : Prop where
  timebases : t.timebases = s.timebases
  store : t.store = s.store
  channels : t.channels = s.channels
  pinTable : t.pinTable = s.pinTable
  fabric : t.fabric = s.fabric
  hold : t.hold = s.hold

theorem State.SameBlocks.of_linkOnly {s t : State} (h : s.LinkOnly t) : s.SameBlocks t := by
  unfold State.LinkOnly at h
  rw [h]
  exact ⟨rfl, rfl, rfl, rfl, rfl, rfl⟩

/-- What an invariant of the blocks behind the link unit must survive to survive every step. -/
structure KeptByBlocks (P : State → Prop) : Prop where
  same : ∀ s t, s.SameBlocks t → P s → P t
  effect : ∀ s t, P s → s.Effect t → P t
  tick : ∀ s ch sample, P s → P (s.tickChannel ch sample)
  pinHold : ∀ s, P s → P s.changePinHold
  runCount : ∀ s n, P s → P { s with hold := { s.hold with runCount := n } }
  clock : ∀ s, P s → P s.advanceClock
  taken : ∀ (s : State) (t : TimebaseId), P s → P { s with timebases := s.timebases.set t (s.timebases[t].take) }
  cold : ∀ h, P { State.cold with hold := { pinHold := h, runCount := 0, request := false } }

namespace KeptByBlocks

variable {P : State → Prop}

theorem linkOnly (k : KeptByBlocks P) {s t : State} (h : P s) (e : s.LinkOnly t) : P t := k.same s t (.of_linkOnly e) h

theorem request (k : KeptByBlocks P) {s : State} {r : Request} {o : List Byte → State → Answer} (ho : o ∈ owners)
    (h : P s) : P (s.request r o) := by
  have ha : P (s.arrived r) := k.linkOnly h (s.arrived_linkOnly r)
  refine State.request_keeps h ha fun _ => ?_
  have hp : P (s.taken r) := k.linkOnly ha rfl
  cases e : o r.body (s.taken r) with
  | refuse st => exact k.linkOnly hp rfl
  | succeed t results => exact k.linkOnly (k.effect _ _ hp (owner_effect ho e)) rfl

theorem working (k : KeptByBlocks P) {s t : State} (h : P s) (e : s.LinkOnly t) : P (s.working t) := by
  unfold State.working
  split
  · exact h
  · exact k.linkOnly h e

theorem toCold (k : KeptByBlocks P) (s : State) (b : Bool) : P { s.toCold with inColdReset := b } :=
  k.same { State.cold with hold := { pinHold := .deasserted, runCount := 0, request := false } } _
    ⟨rfl, rfl, rfl, rfl, rfl, rfl⟩ (k.cold .deasserted)

theorem endCold (k : KeptByBlocks P) (s : State) (a b : Sample) : P (s.endColdReset a b) := by
  refine k.same { State.cold with hold := { pinHold := pinHoldOf a, runCount := 0, request := false } } _ ?_ (k.cold _)
  exact ⟨rfl, rfl, rfl, rfl, rfl, rfl⟩

theorem tickWhen (k : KeptByBlocks P) {s : State} (h : P s) (ch : ChannelId) (sample : Sample) (b : Bool) :
    P (s.tickWhen ch sample b) := by
  unfold State.tickWhen
  split
  · exact k.tick _ _ _ h
  · exact h

/-- Every command keeps the invariant. -/
theorem exec (k : KeptByBlocks P) {i : Instr} {s t : State} (h : P s) (e : Machine.exec i s = .next t) : P t := by
  cases i <;> simp only [Machine.exec] at e
  case badKind kind tag body =>
    cases e
    split
    · exact h
    · have ha : P (s.arrived ⟨kind, tag, body⟩) := k.linkOnly h (s.arrived_linkOnly _)
      have hp : P (State.taken s ⟨kind, tag, body⟩) := k.linkOnly ha rfl
      exact State.request_keeps h ha fun _ => k.linkOnly hp rfl
  case frameEnd =>
    cases e
    refine k.working h ?_
    split
    · exact s.judge_linkOnly _ _ _
    · exact .refl s
  case badLen =>
    cases e
    refine k.working h ?_
    split
    · rfl
    · exact .refl s
  case gapTimeout => cases e; exact k.working h s.gapExpires_linkOnly
  case linkReset => cases e; exact k.working h rfl
  case transmitterFree => cases e; exact k.working h rfl
  case coldReset => cases e; exact k.endCold s _ _
  case pinHoldChange =>
    cases e
    unfold State.working
    split
    · exact h
    · exact k.pinHold s h
  case byteArrives => cases e; exact k.working h (s.receiveByte_linkOnly _)
  case framingError => cases e; exact k.working h rfl
  case channelTick => cases e; exact k.tickWhen h _ _ _
  case pendingDeliveryApplied => cases e; exact k.tickWhen h _ _ _
  case enterRunning => cases e; exact k.tickWhen h _ _ _
  case segmentEnd => cases e; exact k.tickWhen h _ _ _
  case edgeAccepted => cases e; exact k.tickWhen h _ _ _
  case timeoutExpiry => cases e; exact k.tickWhen h _ _ _
  all_goals
    cases e
    exact k.request (by simp [owners]) h

theorem parts (k : KeptByBlocks P) : KeptByTickParts P where
  script s _ _ h := k.same s _ ⟨rfl, rfl, rfl, rfl, rfl, rfl⟩ h
  resetRun s _ h := k.same s _ ⟨rfl, rfl, rfl, rfl, rfl, rfl⟩ h
  enterCold s _ := k.toCold s true
  endCold s a b _ := k.endCold s a b
  clock := k.clock
  settle _ h := k.linkOnly h rfl
  turn i u s hu h := by
    cases u with
    | executor =>
      show P s.executorTurn
      unfold State.executorTurn
      split
      · exact h
      · split
        · unfold State.afterCommand
          split
          · exact k.exec h ‹_›
          · exact h
          · exact h
        · exact h
    | receiver => exact k.linkOnly h (s.receiverTurn_linkOnly _)
    | transmitter => exact k.linkOnly h (s.transmitterTurn_linkOnly _)
    | holdFilter =>
      show P (s.holdTurn i.holdN)
      unfold State.holdTurn
      split
      · exact k.runCount s 0 h
      · split
        · exact k.pinHold s h
        · exact k.runCount s _ h
    | channel ch => exact absurd rfl (hu ch)
  channel i s ch h := by
    refine k.linkOnly (s := State.turn i { s with link := Link.cold } (.channel ch)) ?_ rfl
    have h : P { s with link := Link.cold } := k.linkOnly h rfl
    show P (State.channelTurn _ ch i.pins)
    unfold State.channelTurn
    split
    · exact h
    · split
      · exact h
      · exact k.tick _ _ _ (k.taken _ _ h)
  report s b h := k.linkOnly h rfl

/-- Every step keeps the invariant. -/
theorem step (k : KeptByBlocks P) {s t : State} (h : P s) (e : Machine.step s = .next t) : P t :=
  k.parts.step (fun s _ h => k.same s _ ⟨rfl, rfl, rfl, rfl, rfl, rfl⟩ h) (fun _ _ _ h e => k.exec h e) h e

end KeptByBlocks

end Sys2Proof.Machine
end

