-- ==== Sys2Proof/Laws/Operands.lean ====
section
/-! SUPPORT. Reading a field gives back what writing it put there (R163, R164). -/

namespace Sys2Proof.Machine

/-! ### Numbers -/

theorem bytes2_number2 (hi lo : Byte) : bytes2 (number2 hi lo) = [hi, lo] := by
  have a := hi.isLt
  have b := lo.isLt
  simp only [bytes2, number2, List.cons.injEq, and_true]
  constructor <;> apply BitVec.eq_of_toNat_eq <;> simp only [BitVec.toNat_ofNat] <;> omega

theorem number2_bytes2 {n : Nat} (h : n ≤ 65535) : number2 (BitVec.ofNat 8 (n / 256)) (BitVec.ofNat 8 n) = n := by
  simp only [number2, BitVec.toNat_ofNat]
  omega

theorem timeOf_timeBytes (t : Time) :
    timeOf (t.extractLsb' 40 8) (t.extractLsb' 32 8) (t.extractLsb' 24 8) (t.extractLsb' 16 8) (t.extractLsb' 8 8)
      (t.extractLsb' 0 8) = t := by
  unfold timeOf
  rw [BitVec.extractLsb'_append_extractLsb'_eq_extractLsb' (by rfl), BitVec.extractLsb'_append_extractLsb'_eq_extractLsb' (by rfl),
    BitVec.extractLsb'_append_extractLsb'_eq_extractLsb' (by rfl), BitVec.extractLsb'_append_extractLsb'_eq_extractLsb' (by rfl),
    BitVec.extractLsb'_append_extractLsb'_eq_extractLsb' (by rfl)]
  exact BitVec.extractLsb'_eq_self

/-! ### Identifiers -/

theorem idOf_eq_some {n : Nat} {b : Byte} {i : Fin n} : idOf n b = some i ↔ b.toNat = i.val := by
  unfold idOf
  split
  · simp [Fin.ext_iff]
  · rename_i h
    simp only [reduceCtorEq, false_iff]
    exact fun e => h (e ▸ i.isLt)

theorem idOf_eq_none {n : Nat} {b : Byte} (h : n ≤ b.toNat) : idOf n b = none := dif_neg (by omega)

theorem idByte_toNat {n : Nat} (h : n ≤ 256) (i : Fin n) : (idByte i).toNat = i.val := by
  simp only [idByte, byte1, BitVec.toNat_ofNat]
  omega

theorem idOf_idByte {n : Nat} (h : n ≤ 256) (i : Fin n) : idOf n (idByte i) = some i :=
  idOf_eq_some.mpr (idByte_toNat h i)

/-! ### Enumerated fields -/

theorem flagOf_flagByte (b : Bool) : flagOf (flagByte b) = some b := by cases b <;> rfl
theorem levelOf_levelByte (l : Level) : levelOf (levelByte l) = some l := by cases l <;> rfl
theorem restOf_restByte (l : RestLevel) : restOf (restByte l) = some l := by cases l <;> rfl
theorem swapPointOf_swapPointByte (w : SwapPoint) : swapPointOf (swapPointByte w) = some w := by cases w <;> rfl
theorem edgeOf_edgeByte (e : EdgeSelect) : edgeOf (edgeByte e) = some e := by cases e <;> rfl
theorem timeoutActionOf_timeoutActionByte (a : TimeoutAction) : timeoutActionOf (timeoutActionByte a) = some a := by
  cases a <;> rfl
theorem modeOf_modeByte (m : CaptureMode) : modeOf (modeByte m) = some m := by cases m <;> rfl
theorem eventOf_eventByte (k : EventKind) : eventOf (eventByte k) = some k := by cases k <;> rfl
theorem actionOf_actionByte (a : Action) : actionOf (actionByte a) = some a := by cases a <;> rfl

/-! ### Segments -/

theorem segmentOf_segmentBytes {g : Segment} (h1 : 1 ≤ g.duration) (h2 : g.duration ≤ 65536) :
    segmentOf (BitVec.ofNat 8 ((g.duration - 1) / 256)) (BitVec.ofNat 8 (g.duration - 1))
      ((if g.mark then 0x80 else 0x00) ||| levelByte g.level) = some g := by
  obtain ⟨d, l, m⟩ := g
  simp only at h1 h2
  have e : number2 (BitVec.ofNat 8 ((d - 1) / 256)) (BitVec.ofNat 8 (d - 1)) + 1 = d := by
    rw [number2_bytes2 (by omega)]
    omega
  cases l <;> cases m <;> simp [segmentOf, levelOf, levelByte, e] <;> decide

theorem segmentsOf_segmentBytes {gs : List Segment} (h : ∀ g ∈ gs, 1 ≤ g.duration ∧ g.duration ≤ 65536) :
    segmentsOf (gs.flatMap segmentBytes) = some gs := by
  induction gs with
  | nil => rfl
  | cons g gs ih =>
    have hg := h g (List.mem_cons_self ..)
    have hs := ih fun g m => h g (List.mem_cons_of_mem _ m)
    simp only [List.flatMap_cons, segmentBytes, bytes2, List.cons_append, List.nil_append, segmentsOf,
      segmentOf_segmentBytes hg.1 hg.2, hs]

end Sys2Proof.Machine
end

