-- ==== Sys2Proof/Laws/PerInstr.lean ====
section
/-! SUPPORT. A statement about the form of every command: a request that can be sent is the command its KIND spells (R164). -/

namespace Sys2Proof.Laws.RequestForm

open Sys2Proof.Machine

/-- A well-formed command that is a request is the command of that request, and its frame fits: KIND below 0x80, body of 248 at most. -/
def Statement (i : Instr) : Prop :=
  i.wellFormed = true → ∀ r, requestOf i = some r → r.command = i ∧ r.kind.toNat < 0x80 ∧ r.body.length ≤ 248

/-- A request row of an assigned KIND. -/
theorem of_assigned {i : Instr} {r : Request} (hi : requestOf i = some r) (hc : r.command = i)
    (hw : i.wellFormed = requestFits r) : Statement i := by
  intro h q hq
  rw [hi] at hq
  cases hq
  rw [hw] at h
  simp only [requestFits, Bool.and_eq_true, decide_eq_true_eq] at h
  exact ⟨hc, h.2, h.1⟩

/-- A row that is no request. -/
theorem of_none {i : Instr} (hi : requestOf i = none) : Statement i := by
  intro _ r h
  rw [hi] at h
  cases h

theorem queryDevice (tag : Byte) (body : List Byte) : Statement (.queryDevice tag body) := of_assigned rfl rfl rfl
theorem readTime (tag : Byte) (body : List Byte) : Statement (.readTime tag body) := of_assigned rfl rfl rfl
theorem grant (tag : Byte) (body : List Byte) : Statement (.grant tag body) := of_assigned rfl rfl rfl
theorem deviceReset (tag : Byte) (body : List Byte) : Statement (.deviceReset tag body) := of_assigned rfl rfl rfl
theorem setTimebase (tag : Byte) (body : List Byte) : Statement (.setTimebase tag body) := of_assigned rfl rfl rfl
theorem hold (tag : Byte) (body : List Byte) : Statement (.hold tag body) := of_assigned rfl rfl rfl
theorem release (tag : Byte) (body : List Byte) : Statement (.release tag body) := of_assigned rfl rfl rfl
theorem definePattern (tag : Byte) (body : List Byte) : Statement (.definePattern tag body) := of_assigned rfl rfl rfl
theorem deletePattern (tag : Byte) (body : List Byte) : Statement (.deletePattern tag body) := of_assigned rfl rfl rfl
theorem queryPattern (tag : Byte) (body : List Byte) : Statement (.queryPattern tag body) := of_assigned rfl rfl rfl
theorem bind (tag : Byte) (body : List Byte) : Statement (.bind tag body) := of_assigned rfl rfl rfl
theorem unbind (tag : Byte) (body : List Byte) : Statement (.unbind tag body) := of_assigned rfl rfl rfl
theorem configureOutput (tag : Byte) (body : List Byte) : Statement (.configureOutput tag body) := of_assigned rfl rfl rfl
theorem configureInput (tag : Byte) (body : List Byte) : Statement (.configureInput tag body) := of_assigned rfl rfl rfl
theorem freeze (tag : Byte) (body : List Byte) : Statement (.freeze tag body) := of_assigned rfl rfl rfl
theorem clearChannel (tag : Byte) (body : List Byte) : Statement (.clearChannel tag body) := of_assigned rfl rfl rfl
theorem queryChannel (tag : Byte) (body : List Byte) : Statement (.queryChannel tag body) := of_assigned rfl rfl rfl
theorem assign (tag : Byte) (body : List Byte) : Statement (.assign tag body) := of_assigned rfl rfl rfl
theorem unstage (tag : Byte) (body : List Byte) : Statement (.unstage tag body) := of_assigned rfl rfl rfl
theorem start (tag : Byte) (body : List Byte) : Statement (.start tag body) := of_assigned rfl rfl rfl
theorem stop (tag : Byte) (body : List Byte) : Statement (.stop tag body) := of_assigned rfl rfl rfl
theorem setEmitter (tag : Byte) (body : List Byte) : Statement (.setEmitter tag body) := of_assigned rfl rfl rfl
theorem clearEmitter (tag : Byte) (body : List Byte) : Statement (.clearEmitter tag body) := of_assigned rfl rfl rfl
theorem addListener (tag : Byte) (body : List Byte) : Statement (.addListener tag body) := of_assigned rfl rfl rfl
theorem removeListener (tag : Byte) (body : List Byte) : Statement (.removeListener tag body) := of_assigned rfl rfl rfl
theorem queryFabric (tag : Byte) (body : List Byte) : Statement (.queryFabric tag body) := of_assigned rfl rfl rfl
/-- BAD_KIND carries a KIND below 0x80 that is no assigned request code. -/
theorem badKind (kind tag : Byte) (body : List Byte) : Statement (.badKind kind tag body) := by
  intro h r hr
  cases hr
  simp only [Instr.wellFormed, requestFits, Bool.and_eq_true, decide_eq_true_eq, Bool.not_eq_true'] at h
  refine ⟨?_, h.1.2, h.1.1⟩
  have ha := h.2
  unfold Request.command
  split <;> first
    | rfl
    | rename_i e
      have k : kind = BitVec.ofNat 8 kind.toNat := by simp
      rw [show kind.toNat = _ from e] at k
      rw [k] at ha
      exact absurd ha (by decide)

theorem frameEnd (byte : Byte) : Statement (.frameEnd byte) := of_none rfl
theorem badLen (byte : Byte) : Statement (.badLen byte) := of_none rfl
theorem gapTimeout : Statement (.gapTimeout) := of_none rfl
theorem linkReset : Statement (.linkReset) := of_none rfl
theorem transmitterFree (gapFirst : Bool) : Statement (.transmitterFree gapFirst) := of_none rfl
theorem coldReset (holdN lrx : Sample) : Statement (.coldReset holdN lrx) := of_none rfl
theorem pinHoldChange : Statement (.pinHoldChange) := of_none rfl
theorem channelTick (ch : ChannelId) (sample : Sample) : Statement (.channelTick ch sample) := of_none rfl
theorem pendingDeliveryApplied (ch : ChannelId) (sample : Sample) : Statement (.pendingDeliveryApplied ch sample) := of_none rfl
theorem enterRunning (ch : ChannelId) (sample : Sample) : Statement (.enterRunning ch sample) := of_none rfl
theorem segmentEnd (ch : ChannelId) (sample : Sample) : Statement (.segmentEnd ch sample) := of_none rfl
theorem edgeAccepted (ch : ChannelId) (sample : Sample) : Statement (.edgeAccepted ch sample) := of_none rfl
theorem timeoutExpiry (ch : ChannelId) (sample : Sample) : Statement (.timeoutExpiry ch sample) := of_none rfl
theorem byteArrives (byte : Byte) : Statement (.byteArrives byte) := of_none rfl
theorem framingError : Statement (.framingError) := of_none rfl

end Sys2Proof.Laws.RequestForm
end

