-- ==== Sys2Proof/Laws/Raise.lean ====
section
/-! SUPPORT. What a tick of a channel has to do with the link unit: it reads nothing of it, and does nothing with it but to raise reports,
64 at most. So the reports of a tick are those that it puts into an empty queue. -/

namespace Sys2Proof.Machine

/-- At `s`, `op` raises exactly the reports `bs`, whatever the link unit is, and has nothing else to do with it. -/
def State.Emits (op : State → State) (s : State) (bs : List ReportBody) : Prop :=
  ∀ k : Link, op { s with link := k } = { op s with link := bs.foldl Link.append k }

/-- At `s`, `op` has nothing to do with the link unit but to raise at most `n` reports. -/
def State.EmitsUpTo (op : State → State) (s : State) (n : Nat) : Prop :=
  ∃ bs : List ReportBody, bs.length ≤ n ∧ State.Emits op s bs

/-- The lines that carry the kind of event of the channel. -/
def Fabric.carriers (f : Fabric) (ch : ChannelId) (k : EventKind) (ls : List LineId) : Nat :=
  ls.countP fun l => (f.emitters[l]).any fun e => decide (e.source = ch ∧ e.kind = k)

theorem Fabric.carriers_le (f : Fabric) (ch : ChannelId) (k : EventKind) : f.carriers ch k lines ≤ 8 :=
  List.countP_le_length

/-- A line carries one kind of event only. -/
theorem Fabric.carriers_add_le (f : Fabric) (ch : ChannelId) {k k' : EventKind} (h : k ≠ k') :
    f.carriers ch k lines + f.carriers ch k' lines ≤ 8 := by
  have all : ∀ ls : List LineId, f.carriers ch k ls + f.carriers ch k' ls ≤ ls.length := by
    intro ls
    induction ls with
    | nil => simp [Fabric.carriers]
    | cons l ls ih =>
      simp only [Fabric.carriers, List.countP_cons, List.length_cons] at ih ⊢
      cases f.emitters[l] with
      | none => simp only [Option.any_none, Bool.false_eq_true, if_false]; omega
      | some e =>
        simp only [Option.any_some, decide_eq_true_eq]
        split <;> split <;> first | omega | (rename_i a b; exact absurd (a.2.symm.trans b.2) h)
  exact all lines

/-- The reports that the own work of a tick raises at most, where `limit` lines carry the channel's LIMIT. -/
def Channel.ownBudget (c : Channel) (limit : Nat) : Nat :=
  match c.activity, c.isOutput with
  | .waiting, _ => 18
  | .running, true => 25
  | .running, false => limit + 10
  | _, _ => 0

/-- The reports that the delivery stage of a tick has raised at most after `j` lines, where `limit` lines carry the channel's LIMIT: an
output channel is started and swaps at most once; an input channel reaches its limit again only after a START in between. -/
def Channel.stageBudget (c : Channel) (limit j : Nat) : Nat :=
  match c.role, c.activity with
  | .output _, .waiting => 0
  | .output o, .running => if o.staged = none then 17 else 8
  | .output _, _ => 18
  | .input _, .waiting => 5 * j + 5
  | .input _, .running => 5 * j + 8 - limit
  | .input _, _ => 5 * j + 6

/-- No tick passes the report queue's 64. -/
theorem Channel.budget_le (c : Channel) {limit : Nat} (h : limit ≤ 8) : c.stageBudget limit 8 + c.ownBudget limit ≤ 64 := by
  unfold Channel.stageBudget Channel.ownBudget Channel.isOutput
  cases c.role <;> cases c.activity <;> dsimp only <;> first | omega | (split <;> omega)

namespace State.EmitsUpTo

variable {op op' : State → State} {s : State} {n m : Nat} {ch : ChannelId}

theorem quiet (h : ∀ k : Link, op { s with link := k } = { op s with link := k }) : EmitsUpTo op s 0 :=
  ⟨[], le_refl _, h⟩

theorem mono (h : EmitsUpTo op s n) (hn : n ≤ m) : EmitsUpTo op s m :=
  let ⟨bs, hb, e⟩ := h
  ⟨bs, hb.trans hn, e⟩

theorem comp (h : EmitsUpTo op s n) (g : EmitsUpTo op' (op s) m) : EmitsUpTo (fun s => op' (op s)) s (n + m) := by
  obtain ⟨bs, hb, e⟩ := h
  obtain ⟨cs, hc, e'⟩ := g
  refine ⟨bs ++ cs, by rw [List.length_append]; omega, fun k => ?_⟩
  show op' (op _) = _
  rw [e k, e', List.foldl_append]

theorem congr (h : EmitsUpTo op s n) (e : ∀ k : Link, op' { s with link := k } = op { s with link := k }) :
    EmitsUpTo op' s n := by
  obtain ⟨bs, hb, h⟩ := h
  refine ⟨bs, hb, fun k => ?_⟩
  rw [e k, h k, show op' s = op s from e s.link]

theorem ite {b : Bool} (h : b = true → EmitsUpTo op s n) (g : b = false → EmitsUpTo op' s n) :
    EmitsUpTo (fun s => if b = true then op s else op' s) s n := by
  cases b
  · exact (g rfl).congr fun _ => rfl
  · exact (h rfl).congr fun _ => rfl

theorem report (s : State) (b : ReportBody) : EmitsUpTo (fun s => s.report b) s 1 := ⟨[b], le_refl _, fun _ => rfl⟩

theorem id (s : State) : EmitsUpTo (fun s => s) s 0 := quiet fun _ => rfl

theorem setChannel (s : State) (ch : ChannelId) (c : Option Channel) : EmitsUpTo (fun s => s.setChannel ch c) s 0 :=
  quiet fun _ => rfl

theorem updateChannel (s : State) (ch : ChannelId) (f : Channel → Channel) :
    EmitsUpTo (fun s => s.updateChannel ch f) s 0 := by
  refine quiet fun k => ?_
  simp only [State.updateChannel]
  cases s.channels[ch] <;> rfl

/-! ### Events -/

theorem carry (s : State) (ch : ChannelId) (k : EventKind) (l : LineId) :
    EmitsUpTo (fun s => s.carry ch k l) s (s.fabric.carriers ch k [l]) := by
  simp only [Fabric.carriers, List.countP_cons, List.countP_nil, Nat.zero_add]
  cases he : s.fabric.emitters[l] with
  | none => exact (id s).congr (fun j => by simp only [State.carry, he]) |>.mono (Nat.zero_le _)
  | some e =>
    by_cases h : e.source = ch ∧ e.kind = k
    · simp only [Option.any_some, h, and_self, decide_true, if_true]
      cases hr : e.report with
      | true =>
        refine ((report s (.line l ch k s.time)).comp (op' := fun s => s.placeDeliveries l) (m := 0) (quiet fun _ => rfl)).congr
          fun j => ?_
        simp only [State.carry, he, h, hr, and_self, if_true]
      | false =>
        refine (quiet (op := fun s => s.placeDeliveries l) (s := s) fun _ => rfl).mono (Nat.zero_le 1) |>.congr fun j => ?_
        simp only [State.carry, he, h, hr, and_self, if_true, Bool.false_eq_true, if_false]
    · exact (id s).congr (fun j => by simp only [State.carry, he, if_neg h]) |>.mono (Nat.zero_le _)

@[simp] theorem carry_fabric (s : State) (ch : ChannelId) (k : EventKind) (l : LineId) : (s.carry ch k l).fabric = s.fabric := by
  rcases s.carry_cases ch k l with e | e | e <;> rw [e] <;> rfl

/-- An event raises at most one report for each line that carries it (R114). -/
theorem raise (s : State) (ch : ChannelId) (k : EventKind) :
    EmitsUpTo (fun s => s.raise ch k) s (s.fabric.carriers ch k lines) := by
  have all : ∀ (ls : List LineId) (s : State),
      EmitsUpTo (fun s => ls.foldl (fun s l => s.carry ch k l) s) s (s.fabric.carriers ch k ls) := by
    intro ls
    induction ls with
    | nil => exact fun s => (id s).mono (Nat.zero_le _)
    | cons l ls ih =>
      intro s
      refine ((carry s ch k l).comp (ih (s.carry ch k l))).mono (le_of_eq ?_)
      rw [carry_fabric]
      simp only [Fabric.carriers, List.countP_cons, List.countP_nil]
      omega
  exact all lines s

theorem raise_eight (s : State) (ch : ChannelId) (k : EventKind) : EmitsUpTo (fun s => s.raise ch k) s 8 :=
  (raise s ch k).mono (s.fabric.carriers_le ch k)

/-! ### Output channels -/

theorem enterRunning (s : State) (ch : ChannelId) :
    EmitsUpTo (fun s => s.enterRunning ch) s (s.fabric.carriers ch .begin lines) := by
  cases hc : s.channels[ch] with
  | none => exact (id s).congr (fun k => by simp only [State.enterRunning, hc]) |>.mono (Nat.zero_le _)
  | some c =>
    let role := match c.role with
      | .input i => Role.input i
      | .output o =>
        match s.activePattern o with
        | none => Role.output o
        | some p => Role.output (o.begin p 0)
    refine (((setChannel s ch (some { c with activity := .running, role := role })).comp (raise _ ch .begin)).congr
      fun k => ?_).mono (Nat.zero_add _).le
    simp only [State.enterRunning, hc]
    rfl

theorem outputChannel_link (s : State) (k : Link) (ch : ChannelId) :
    State.outputChannel { s with link := k } ch = s.outputChannel ch := rfl
theorem inputChannel_link (s : State) (k : Link) (ch : ChannelId) :
    State.inputChannel { s with link := k } ch = s.inputChannel ch := rfl
theorem activePattern_link (s : State) (k : Link) (o : OutputRole) :
    State.activePattern { s with link := k } o = s.activePattern o := rfl

theorem beginSegment (s : State) (ch : ChannelId) (p : Pattern) (i reps : Nat) :
    EmitsUpTo (fun s => s.beginSegment ch p i reps) s 0 := updateChannel s ch _

theorem restart (s : State) (ch : ChannelId) : EmitsUpTo (fun s => s.restart ch) s 0 := by
  cases hc : s.outputChannel ch with
  | none => exact (id s).congr fun k => by simp only [State.restart, outputChannel_link, hc]
  | some co =>
    obtain ⟨c, o⟩ := co
    cases hp : s.activePattern o with
    | none => exact (id s).congr fun k => by simp only [State.restart, outputChannel_link, activePattern_link, hc, hp]
    | some p =>
      exact (beginSegment s ch p 0 0).congr fun k => by
        simp only [State.restart, outputChannel_link, activePattern_link, hc, hp]

theorem swap (s : State) (ch : ChannelId) (cause : SwapCause) : EmitsUpTo (fun s => s.swap ch cause) s 9 := by
  cases hc : s.outputChannel ch with
  | none => exact (id s).congr (fun k => by simp only [State.swap, outputChannel_link, hc]) |>.mono (Nat.zero_le _)
  | some co =>
    obtain ⟨c, o⟩ := co
    cases hw : o.staged with
    | none => exact (id s).congr (fun k => by simp only [State.swap, outputChannel_link, hc, hw]) |>.mono (Nat.zero_le _)
    | some g =>
      have first : EmitsUpTo (fun s => State.setChannel { s with store := s.store.releaseField o.active } ch
          (some { c with role := .output (o.swapped s.store g) })) s 0 := quiet fun _ => rfl
      refine ((first.comp (raise_eight _ ch .swap)).comp (report _ (.swap ch o.active g.pattern cause s.time))).congr fun k => ?_
      simp only [State.swap, outputChannel_link, hc, hw]

theorem endPlay (s : State) (ch : ChannelId) (p : Pattern) : EmitsUpTo (fun s => s.endPlay ch p) s 9 := by
  have h : ∀ (t : State) (now : Time), EmitsUpTo (fun t =>
      match t.outputChannel ch with
      | none => t
      | some (c, o) =>
        if c.rearm then t.setChannel ch (some (c.rearmOutput o))
        else (t.setChannel ch (some (c.finish o p))).report (.state ch .doneFinished now)) t 1 := by
    intro t now
    cases hc : t.outputChannel ch with
    | none => exact (id t).congr (fun k => by simp only [outputChannel_link, hc]) |>.mono (Nat.zero_le _)
    | some co =>
      obtain ⟨c, o⟩ := co
      refine (ite (b := c.rearm) (fun _ => (setChannel t ch (some (c.rearmOutput o))).mono (Nat.zero_le 1))
        fun _ => (setChannel t ch (some (c.finish o p))).comp (report _ (.state ch .doneFinished now))).congr fun k => ?_
      simp only [outputChannel_link, hc]
  refine ((raise_eight s ch .done).comp (h _ s.time)).congr fun k => ?_
  cases e : (State.raise { s with link := k } ch .done).outputChannel ch <;> simp only [State.endPlay, e]

theorem endRepetition (s : State) (ch : ChannelId) (o : OutputRole) (p : Pattern) :
    EmitsUpTo (fun s => s.endRepetition ch o p) s 17 := by
  have h : ∀ t : State, EmitsUpTo (fun t =>
      if o.stagedAt .cycle = true then t.swap ch .cycle
      else if p.repeatCount = 0 ∨ countUp o.reps < p.repeatCount then t.beginSegment ch p 0 (countUp o.reps)
      else t.endPlay ch p) t 9 := by
    intro t
    by_cases h1 : o.stagedAt .cycle = true
    · exact (swap t ch .cycle).congr fun k => by simp only [if_pos h1]
    · by_cases h2 : p.repeatCount = 0 ∨ countUp o.reps < p.repeatCount
      · exact ((beginSegment t ch p 0 (countUp o.reps)).mono (Nat.zero_le 9)).congr fun k => by simp only [if_neg h1, if_pos h2]
      · exact (endPlay t ch p).congr fun k => by simp only [if_neg h1, if_neg h2]
  refine (((updateChannel s ch fun c => c.updateOutput fun q => { q with reps := countUp o.reps }).comp
    (raise_eight _ ch .cycle)).comp (h _)).congr fun k => ?_
  simp only [State.endRepetition]

theorem afterMark (s : State) (ch : ChannelId) (o : OutputRole) (p : Pattern) :
    EmitsUpTo (fun s => s.afterMark ch o p) s 17 := by
  by_cases h1 : o.stagedAt .segment = true <;> by_cases h2 : p.segments.length ≤ o.segIndex + 1
  · exact ((raise_eight s ch .cycle).comp (swap _ ch .segment)).congr fun k => by
      simp only [State.afterMark, if_pos h1, if_pos h2]
  · exact ((swap s ch .segment).mono (by decide : 9 ≤ 17)).congr fun k => by
      simp only [State.afterMark, if_pos h1, if_neg h2]
  · exact (endRepetition s ch o p).congr fun k => by simp only [State.afterMark, if_neg h1, if_pos h2]
  · exact ((beginSegment s ch p (o.segIndex + 1) o.reps).mono (Nat.zero_le 17)).congr fun k => by
      simp only [State.afterMark, if_neg h1, if_neg h2]

theorem countSegment (s : State) (ch : ChannelId) : EmitsUpTo (fun s => s.countSegment ch) s 25 := by
  have ended : EmitsUpTo (fun s => s.endSegment ch) s 25 := by
    cases hc : s.outputChannel ch with
    | none => exact (id s).congr (fun k => by simp only [State.endSegment, outputChannel_link, hc]) |>.mono (Nat.zero_le _)
    | some co =>
      obtain ⟨c, o⟩ := co
      cases hp : s.activePattern o with
      | none =>
        exact (id s).congr (fun k => by simp only [State.endSegment, outputChannel_link, activePattern_link, hc, hp]) |>.mono
          (Nat.zero_le _)
      | some p =>
        cases hg : p.segments[o.segIndex]? with
        | none =>
          exact (id s).congr (fun k => by simp only [State.endSegment, outputChannel_link, activePattern_link, hc, hp, hg]) |>.mono
            (Nat.zero_le _)
        | some g =>
          have mark : EmitsUpTo (fun s => if g.mark = true then s.raise ch .mark else s) s 8 :=
            ite (fun _ => raise_eight s ch .mark) fun _ => (id s).mono (Nat.zero_le _)
          exact (mark.comp (afterMark _ ch o p)).congr fun k => by
            simp only [State.endSegment, outputChannel_link, activePattern_link, hc, hp, hg]
  cases hc : s.outputChannel ch with
  | none => exact (id s).congr (fun k => by simp only [State.countSegment, outputChannel_link, hc]) |>.mono (Nat.zero_le _)
  | some co =>
    obtain ⟨c, o⟩ := co
    cases ht : o.ticksLeft with
    | none => exact (id s).congr (fun k => by simp only [State.countSegment, outputChannel_link, hc, ht]) |>.mono (Nat.zero_le _)
    | some n =>
      by_cases hn : n ≤ 1
      · exact ended.congr fun k => by simp only [State.countSegment, outputChannel_link, hc, ht, if_pos hn]
      · exact ((updateChannel s ch fun c => c.updateOutput fun o => { o with ticksLeft := some (n - 1) }).congr fun k => by
          simp only [State.countSegment, outputChannel_link, hc, ht, if_neg hn]).mono (Nat.zero_le _)

/-! ### Input channels -/

theorem capture (s : State) (ch : ChannelId) (kind : CaptureKind) (time : Time) :
    EmitsUpTo (fun s => s.capture ch kind time) s 1 := by
  cases hc : s.inputChannel ch with
  | none => exact (id s).congr (fun k => by simp only [State.capture, inputChannel_link, hc]) |>.mono (Nat.zero_le _)
  | some co =>
    obtain ⟨c, i⟩ := co
    exact ((setChannel s ch (some { c with role := .input (i.captured time) })).comp
      (report _ (.capture ch kind (countUp i.captures) time (i.interval time)))).congr fun k => by
        simp only [State.capture, inputChannel_link, hc]

theorem testLimit (s : State) (ch : ChannelId) :
    EmitsUpTo (fun s => s.testLimit ch) s (s.fabric.carriers ch .limit lines + 1) := by
  have h : ∀ (t : State) (now : Time), EmitsUpTo (fun t =>
      match t.inputChannel ch with
      | none => t
      | some (c, i) =>
        if c.rearm then t.setChannel ch (some (c.rearmInput i))
        else (t.setChannel ch (some c.limitReached)).report (.state ch .doneLimit now)) t 1 := by
    intro t now
    cases hc : t.inputChannel ch with
    | none => exact (id t).congr (fun k => by simp only [inputChannel_link, hc]) |>.mono (Nat.zero_le _)
    | some co =>
      obtain ⟨c, i⟩ := co
      refine (ite (b := c.rearm) (fun _ => (setChannel t ch (some (c.rearmInput i))).mono (Nat.zero_le 1))
        fun _ => (setChannel t ch (some c.limitReached)).comp (report _ (.state ch .doneLimit now))).congr fun k => ?_
      simp only [inputChannel_link, hc]
  cases hc : s.inputChannel ch with
  | none => exact (id s).congr (fun k => by simp only [State.testLimit, inputChannel_link, hc]) |>.mono (Nat.zero_le _)
  | some co =>
    obtain ⟨c, i⟩ := co
    by_cases hl : i.limit ≠ 0 ∧ i.captures = i.limit
    · exact ((raise s ch .limit).comp (h _ s.time)).congr fun k => by
        cases e : (State.raise { s with link := k } ch .limit).inputChannel ch <;>
          simp only [State.testLimit, inputChannel_link, hc, if_pos hl, e]
    · exact ((id s).congr fun k => by simp only [State.testLimit, inputChannel_link, hc, if_neg hl]).mono (Nat.zero_le _)

theorem stamp (s : State) (ch : ChannelId) (d : Delivery) :
    EmitsUpTo (fun s => s.stamp ch d) s (s.fabric.carriers ch .limit lines + 2) := by
  refine ((capture s ch (.linked d.count) d.firstTime).comp (testLimit _ ch)).mono (le_of_eq ?_)
  rw [((Plays.refl ch s).capture (.linked d.count) d.firstTime).fabric]
  omega

theorem startWindow (s : State) (ch : ChannelId) : EmitsUpTo (fun s => s.startWindow ch) s 0 := updateChannel s ch _

theorem acceptEdge (s : State) (ch : ChannelId) (cand : Sample) (start : Time) {c : Channel} {i : InputRole}
    (hc : s.inputChannel ch = some (c, i)) :
    EmitsUpTo (fun s => s.acceptEdge ch cand start) s
      (if i.edgeSelect.admits cand = true then s.fabric.carriers ch .limit lines + 10 else 0) := by
  have first := setChannel s ch (some { c with role := .input { i with accepted := some cand, qual := none } })
  by_cases h : i.edgeSelect.admits cand = true
  · rw [if_pos h]
    have hp := ((((Plays.refl ch s).setChannel
      (c' := { c with role := .input { i with accepted := some cand, qual := none } })
      (State.inputChannel_eq_some.mp hc).1
      (by simp [Channel.wiring, Role.cleared, (State.inputChannel_eq_some.mp hc).2, InputRole.cleared])).capture
      (edgeKind cand) start).raise ch .edge).startWindow
    refine (((((first.comp (capture _ ch (edgeKind cand) start)).comp (raise_eight _ ch .edge)).comp
      (startWindow _ ch)).comp (testLimit _ ch)).congr fun k => ?_).mono ?_
    · simp only [State.acceptEdge, inputChannel_link, hc, if_pos h]
    · rw [hp.fabric]
      omega
  · rw [if_neg h]
    exact first.congr fun k => by simp only [State.acceptEdge, inputChannel_link, hc, if_neg h]

theorem countWindow (s : State) (ch : ChannelId) : EmitsUpTo (fun s => s.countWindow ch) s 10 := by
  have expired : EmitsUpTo (fun s => s.expire ch) s 10 := by
    cases hc : s.inputChannel ch with
    | none => exact (id s).congr (fun k => by simp only [State.expire, inputChannel_link, hc]) |>.mono (Nat.zero_le _)
    | some co =>
      obtain ⟨c, i⟩ := co
      have first := (report s (.capture ch .timeout i.captures s.time (i.interval s.time))).comp (raise_eight _ ch .timeout)
      cases ha : i.timeoutAction with
      | report =>
        exact ((first.comp (startWindow _ ch)).congr fun k => by simp only [State.expire, inputChannel_link, hc, ha]).mono
          (by decide)
      | halt =>
        exact ((first.comp (updateChannel _ ch fun c => c.halt .timeout)).comp
          (report _ (.state ch .haltedTimeout s.time))).congr fun k => by simp only [State.expire, inputChannel_link, hc, ha]
  cases hc : s.inputChannel ch with
  | none => exact (id s).congr (fun k => by simp only [State.countWindow, inputChannel_link, hc]) |>.mono (Nat.zero_le _)
  | some co =>
    obtain ⟨c, i⟩ := co
    cases ht : i.timeoutLeft with
    | none => exact (id s).congr (fun k => by simp only [State.countWindow, inputChannel_link, hc, ht]) |>.mono (Nat.zero_le _)
    | some n =>
      by_cases hn : n ≤ 1
      · exact expired.congr fun k => by simp only [State.countWindow, inputChannel_link, hc, ht, if_pos hn]
      · exact ((updateChannel s ch fun c => c.updateInput fun i => { i with timeoutLeft := some (n - 1) }).congr fun k => by
          simp only [State.countWindow, inputChannel_link, hc, ht, if_neg hn]).mono (Nat.zero_le _)

theorem inputWork (s : State) (ch : ChannelId) (sample : Sample) :
    EmitsUpTo (fun s => s.inputWork ch sample) s (s.fabric.carriers ch .limit lines + 10) := by
  have le : 10 ≤ s.fabric.carriers ch .limit lines + 10 := by omega
  cases hc : s.inputChannel ch with
  | none => exact (id s).congr (fun k => by simp only [State.inputWork, inputChannel_link, hc]) |>.mono (Nat.zero_le _)
  | some co =>
    obtain ⟨c, i⟩ := co
    cases ha : i.accepted with
    | none =>
      exact (((updateChannel s ch fun c => c.updateInput fun i => { i with accepted := some sample }).comp
        (startWindow _ ch)).congr fun k => by simp only [State.inputWork, inputChannel_link, hc, ha]; rfl).mono (Nat.zero_le _)
    | some a =>
      cases ho : i.sampleOutcome a sample s.time with
      | steady =>
        exact ((countWindow s ch).congr fun k => by simp only [State.inputWork, inputChannel_link, hc, ha, ho]).mono le
      | qualify q =>
        exact (((updateChannel s ch fun c => c.updateInput fun i => { i with qual := q }).comp (countWindow _ ch)).congr
          fun k => by simp only [State.inputWork, inputChannel_link, hc, ha, ho]).mono (by omega)
      | accept cand start =>
        have edge := acceptEdge s ch cand start hc
        by_cases h : i.edgeSelect.admits cand = true
        · rw [if_pos h] at edge
          exact edge.congr fun k => by simp only [State.inputWork, inputChannel_link, hc, ha, ho, if_pos h]
        · rw [if_neg h] at edge
          exact ((edge.comp (countWindow _ ch)).congr fun k => by
            simp only [State.inputWork, inputChannel_link, hc, ha, ho, if_neg h]).mono (by omega)

/-! ### The stages of a tick -/

theorem ownWork (s : State) (ch : ChannelId) (sample : Sample) (began : Bool) {c : Channel} (hc : s.channels[ch] = some c) :
    EmitsUpTo (fun s => s.ownWork ch sample began) s (c.ownBudget (s.fabric.carriers ch .limit lines)) := by
  cases ha : c.activity <;> cases ho : c.isOutput <;> simp only [Channel.ownBudget, ha, ho]
  case waiting.false =>
    by_cases hm : c.startCondition.met s.time = true
    · refine (((enterRunning s ch).comp (inputWork _ ch sample)).congr fun k => ?_).mono ?_
      · simp only [State.ownWork, hc, ha, ho, if_pos hm, Bool.false_eq_true, if_false]
      · rw [((Plays.refl ch s).enterRunning).fabric]
        have := s.fabric.carriers_add_le ch (k := .begin) (k' := .limit) nofun
        omega
    · exact ((id s).congr fun k => by simp only [State.ownWork, hc, ha, if_neg hm]).mono (Nat.zero_le _)
  case waiting.true =>
    by_cases hm : c.startCondition.met s.time = true
    · refine ((enterRunning s ch).congr fun k => ?_).mono ?_
      · simp only [State.ownWork, hc, ha, ho, if_pos hm, if_true]
      · have := s.fabric.carriers_le ch .begin
        omega
    · exact ((id s).congr fun k => by simp only [State.ownWork, hc, ha, if_neg hm]).mono (Nat.zero_le _)
  case running.true =>
    cases began with
    | true => exact ((id s).congr fun k => by simp only [State.ownWork, hc, ha, ho, if_true]).mono (Nat.zero_le _)
    | false =>
      exact (countSegment s ch).congr fun k => by
        simp only [State.ownWork, hc, ha, ho, if_true, Bool.false_eq_true, if_false]
  case running.false =>
    exact (inputWork s ch sample).congr fun k => by simp only [State.ownWork, hc, ha, ho, Bool.false_eq_true, if_false]
  all_goals exact (id s).congr fun k => by simp only [State.ownWork, hc, ha]

theorem testLimit_of_not {s : State} {ch : ChannelId} {c : Channel} {i : InputRole} (hc : s.inputChannel ch = some (c, i))
    (h : ¬(i.limit ≠ 0 ∧ i.captures = i.limit)) : EmitsUpTo (fun s => s.testLimit ch) s 0 :=
  (id s).congr fun k => by simp only [State.testLimit, inputChannel_link, hc, if_neg h]

end State.EmitsUpTo

/-! ### Deliveries -/

/-- What is shown of an applied delivery `f`, at a state whose channel has the record `c`: it has nothing to do with the link unit but to
raise reports, within the budget of the stage. -/
def State.Delivers (f : State → Staging) (s : State) (ch : ChannelId) (c : Channel) (limit : Nat) : Prop :=
  ∃ (bs : List ReportBody) (c' : Channel), (f s).state.channels[ch] = some c' ∧
    (∀ n j, n ≤ c.stageBudget limit j → n + bs.length ≤ c'.stageBudget limit (j + 1)) ∧
    ∀ k : Link, f { s with link := k } = ⟨{ (f s).state with link := bs.foldl Link.append k }, (f s).began⟩

theorem Channel.stageBudget_mono (c : Channel) (limit j : Nat) : c.stageBudget limit j ≤ c.stageBudget limit (j + 1) := by
  unfold Channel.stageBudget
  split <;> omega

theorem Channel.stageBudget_running {c : Channel} {o : OutputRole} {limit j : Nat} (ha : c.activity = .running)
    (ho : c.role = .output o) : 8 ≤ c.stageBudget limit j := by
  simp only [Channel.stageBudget, ha, ho]
  split <;> omega

namespace State.Delivers

variable {f : State → Staging} {op : State → State} {s : State} {ch : ChannelId} {c c' : Channel} {limit m : Nat}

theorem idle (hc : s.channels[ch] = some c) (h : ∀ k : Link, f { s with link := k } = ⟨{ s with link := k }, false⟩) :
    Delivers f s ch c limit := by
  have e : f s = ⟨s, false⟩ := h s.link
  refine ⟨[], c, by rw [e]; exact hc, fun n j hn => hn.trans (c.stageBudget_mono limit j), fun k => ?_⟩
  rw [h k, e]
  rfl

theorem acts (began : Bool) (h : State.EmitsUpTo op s m) (e : ∀ k : Link, f { s with link := k } = ⟨op { s with link := k }, began⟩)
    (hc : (op s).channels[ch] = some c') (hb : ∀ n j, n ≤ c.stageBudget limit j → n + m ≤ c'.stageBudget limit (j + 1)) :
    Delivers f s ch c limit := by
  obtain ⟨bs, hm, h⟩ := h
  have e0 : f s = ⟨op s, began⟩ := e s.link
  refine ⟨bs, c', by rw [e0]; exact hc, fun n j hn => (Nat.add_le_add_left hm n).trans (hb n j hn), fun k => ?_⟩
  rw [e k, e0, h k]

theorem start (hc : s.channels[ch] = some c) :
    Delivers (fun s => s.deliverStart ch) s ch c (s.fabric.carriers ch .limit lines) := by
  by_cases h1 : c.isOutput = true ∧ s.holdActive = true
  · exact idle hc fun k => by simp only [State.deliverStart, hc]; exact if_pos h1
  · by_cases h2 : c.activity = .waiting ∧ c.startCondition = .trigger
    · have e : ∀ k : Link, State.deliverStart { s with link := k } ch = ⟨State.enterRunning { s with link := k } ch, true⟩ :=
        fun k => by simp only [State.deliverStart, hc]; exact (if_neg h1).trans (if_pos h2)
      have room := s.fabric.carriers_add_le ch (k := .begin) (k' := .limit) nofun
      have eight := s.fabric.carriers_le ch .begin
      obtain ⟨ds, hds⟩ := State.raise_some (s := s.setChannel ch (some { c with
        activity := .running
        role := match c.role with
          | .input i => Role.input i
          | .output o =>
            match s.activePattern o with
            | none => Role.output o
            | some p => Role.output (o.begin p 0) })) ch .begin
        ((State.setChannel_getElem ..).trans (if_pos rfl))
      refine acts true (State.EmitsUpTo.enterRunning s ch) e (c' := _) (by simp only [State.enterRunning, hc]; exact hds) ?_
      intro n j hn
      rcases c with ⟨act, pin, tb, fz, sc, ra, hr, dl, o | i⟩
      · obtain ⟨ha, hs⟩ := h2
        simp only at ha hs
        subst ha hs
        have hn : n ≤ 0 := hn
        cases hp : s.activePattern o with
        | none => exact (by omega : n + _ ≤ 8).trans (Channel.stageBudget_running (o := o) rfl (by simp only [hp]))
        | some p => exact (by omega : n + _ ≤ 8).trans (Channel.stageBudget_running (o := o.begin p 0) rfl (by simp only [hp]))
      · obtain ⟨rfl, -⟩ := h2
        simp only [Channel.stageBudget] at hn ⊢
        omega
    · exact idle hc fun k => by simp only [State.deliverStart, hc]; exact (if_neg h1).trans (if_neg h2)

theorem stop (hc : s.channels[ch] = some c) : Delivers (fun s => s.deliverStop ch) s ch c limit := by
  by_cases h : c.inPlay = true
  · refine acts false ((State.EmitsUpTo.setChannel s ch (some (c.halt .linked))).comp
      (State.EmitsUpTo.report _ (.state ch .haltedLinked s.time))) (c' := c.halt .linked)
      (fun k => by simp only [State.deliverStop, hc, if_pos h]) ((State.setChannel_getElem ..).trans (if_pos rfl)) ?_
    intro n j hn
    have h : c.activity = .waiting ∨ c.activity = .running := of_decide_eq_true h
    rcases c with ⟨act, pin, tb, fz, sc, ra, hr, dl, o | i⟩ <;> rcases h with h | h <;> simp only at h <;> subst h <;>
      simp only [Channel.stageBudget, Channel.halt, Role.cut] at hn ⊢ <;> first | omega | (split at hn <;> omega)
  · exact idle hc fun k => by simp only [State.deliverStop, hc, if_neg h]

theorem restart (hc : s.channels[ch] = some c) : Delivers (fun s => s.deliverRestart ch) s ch c limit := by
  rcases c with ⟨act, pin, tb, fz, sc, ra, hr, dl, o | i⟩
  · have ho := State.outputChannel_eq_some.mpr ⟨hc, rfl⟩
    by_cases h : act = .running
    · subst h
      cases hp : s.activePattern o with
      | none =>
        exact acts true (State.EmitsUpTo.restart s ch) (fun k => by
          simp only [State.deliverRestart, State.EmitsUpTo.outputChannel_link, ho, if_true])
          (by simp only [State.restart, ho, hp]; exact hc) fun n j hn => hn.trans (Channel.stageBudget_mono _ limit j)
      | some p =>
        refine acts true (State.EmitsUpTo.restart s ch) (fun k => by
          simp only [State.deliverRestart, State.EmitsUpTo.outputChannel_link, ho, if_true])
          (by simp only [State.restart, ho, hp, State.beginSegment, State.updateChannel_eq_of_some hc]
              exact (State.setChannel_getElem ..).trans (if_pos rfl)) fun n j hn => ?_
        simp only [Channel.stageBudget, Channel.updateOutput, OutputRole.begin_staged] at hn ⊢
        exact hn
    · exact idle hc fun k => by simp only [State.deliverRestart, State.EmitsUpTo.outputChannel_link, ho, if_neg h]
  · exact idle hc fun k => by simp only [State.deliverRestart, State.outputChannel, hc]

theorem swap (hc : s.channels[ch] = some c) : Delivers (fun s => s.deliverSwap ch) s ch c limit := by
  rcases c with ⟨act, pin, tb, fz, sc, ra, hr, dl, o | i⟩
  · have ho := State.outputChannel_eq_some.mpr ⟨hc, rfl⟩
    by_cases h : act = .running ∧ o.staged ≠ none
    · obtain ⟨rfl, hw⟩ := h
      obtain ⟨g, hg⟩ := Option.ne_none_iff_exists'.mp hw
      obtain ⟨ds, hds⟩ := State.raise_some (s := State.setChannel { s with store := s.store.releaseField o.active } ch
        (some ⟨.running, pin, tb, fz, sc, ra, hr, dl, .output (o.swapped s.store g)⟩)) ch .swap
        ((State.setChannel_getElem ..).trans (if_pos rfl))
      have after : (s.swap ch .action).channels[ch] =
          some ⟨.running, pin, tb, fz, sc, ra, hr, ds, .output (o.swapped s.store g)⟩ := by
        simp only [State.swap, ho, hg, State.report_channels]
        exact hds
      refine acts true (State.EmitsUpTo.swap s ch .action) (fun k => by
        simp only [State.deliverSwap, State.EmitsUpTo.outputChannel_link, ho]
        exact if_pos ⟨trivial, hw⟩) after fun n j hn => ?_
      simp only [Channel.stageBudget, OutputRole.swapped_staged, if_neg hw, if_true] at hn ⊢
      omega
    · exact idle hc fun k => by simp only [State.deliverSwap, State.EmitsUpTo.outputChannel_link, ho]; exact if_neg h
  · exact idle hc fun k => by simp only [State.deliverSwap, State.outputChannel, hc]

theorem stamp (hc : s.channels[ch] = some c) (d : Delivery) :
    Delivers (fun s => s.deliverStamp ch d) s ch c (s.fabric.carriers ch .limit lines) := by
  rcases c with ⟨act, pin, tb, fz, sc, ra, hr, dl, o | i⟩
  · exact idle hc fun k => by simp only [State.deliverStamp, State.inputChannel, hc]
  · have hi := State.inputChannel_eq_some.mpr ⟨hc, rfl⟩
    by_cases h : act = .running
    · subst h
      have e : ∀ k : Link, State.deliverStamp { s with link := k } ch d = ⟨State.stamp { s with link := k } ch d, false⟩ :=
        fun k => by simp only [State.deliverStamp, State.EmitsUpTo.inputChannel_link, hi, if_true]
      have hcap : (s.capture ch (.linked d.count) d.firstTime).channels[ch] =
          some ⟨.running, pin, tb, fz, sc, ra, hr, dl, .input (i.captured d.firstTime)⟩ := by
        simp only [State.capture, hi, State.report_channels]
        exact (State.setChannel_getElem ..).trans (if_pos rfl)
      have hcapi := State.inputChannel_eq_some.mpr ⟨hcap, rfl⟩
      by_cases hl : (i.captured d.firstTime).limit ≠ 0 ∧ (i.captured d.firstTime).captures = (i.captured d.firstTime).limit
      · obtain ⟨ds, hds⟩ := State.raise_some ch .limit hcap
        have hdsi := State.inputChannel_eq_some.mpr ⟨hds, rfl⟩
        have after : ∃ c', (s.stamp ch d).channels[ch] = some c' ∧
            ∀ n j, n ≤ 5 * j + 10 → n ≤ c'.stageBudget (s.fabric.carriers ch .limit lines) (j + 1) := by
          cases ra with
          | true =>
            refine ⟨_, by
              simp only [State.stamp, State.testLimit, hcapi, if_pos hl, hdsi, if_true]
              exact (State.setChannel_getElem ..).trans (if_pos rfl), fun n j hn => ?_⟩
            simp only [Channel.stageBudget, Channel.rearmInput]
            omega
          | false =>
            refine ⟨_, by
              simp only [State.stamp, State.testLimit, hcapi, if_pos hl, hdsi, Bool.false_eq_true, if_false,
                State.report_channels]
              exact (State.setChannel_getElem ..).trans (if_pos rfl), fun n j hn => ?_⟩
            simp only [Channel.stageBudget, Channel.limitReached, Role.cut]
            omega
        obtain ⟨c', hc', hb⟩ := after
        refine acts false (State.EmitsUpTo.stamp s ch d) e hc' fun n j hn => hb _ j ?_
        have := s.fabric.carriers_le ch .limit
        simp only [Channel.stageBudget] at hn
        omega
      · have once : State.EmitsUpTo (fun s => s.stamp ch d) s 1 :=
          (State.EmitsUpTo.capture s ch (.linked d.count) d.firstTime).comp (State.EmitsUpTo.testLimit_of_not hcapi hl)
        have after : (s.stamp ch d).channels[ch] = some ⟨.running, pin, tb, fz, sc, ra, hr, dl, .input (i.captured d.firstTime)⟩ := by
          simp only [State.stamp, State.testLimit, hcapi, if_neg hl]
          exact hcap
        refine acts false once e after fun n j hn => ?_
        have := s.fabric.carriers_le ch .limit
        simp only [Channel.stageBudget] at hn ⊢
        omega
    · exact idle hc fun k => by simp only [State.deliverStamp, State.EmitsUpTo.inputChannel_link, hi, if_neg h]

/-- An applied delivery keeps within the budget of the stage. -/
theorem deliver (hc : s.channels[ch] = some c) (d : Delivery) :
    Delivers (fun s => s.deliver ch d) s ch c (s.fabric.carriers ch .limit lines) := by
  unfold State.deliver
  cases d.action with
  | start => exact start hc
  | stop => exact stop hc
  | restart => exact restart hc
  | swap => exact swap hc
  | stamp => exact stamp hc d

/-- One line of the delivery stage keeps within its budget. -/
theorem applyLine (hc : s.channels[ch] = some c) (began : Bool) (l : LineId) :
    Delivers (fun s => Staging.applyLine ⟨s, began⟩ ch l) s ch c (s.fabric.carriers ch .limit lines) := by
  cases hd : c.due l s.time with
  | none =>
    refine ⟨[], c, ?_, fun n j hn => hn.trans (c.stageBudget_mono _ j), fun k => ?_⟩
    · simp only [Staging.applyLine, hc, hd]
    · simp only [Staging.applyLine, hc, hd]
      rfl
  | some d =>
    have hu : (s.setChannel ch (some (c.undeliver l))).channels[ch] = some (c.undeliver l) :=
      (State.setChannel_getElem ..).trans (if_pos rfl)
    obtain ⟨bs, c', h1, h2, h3⟩ := deliver hu d
    refine ⟨bs, c', ?_, h2, fun k => ?_⟩
    · simp only [Staging.applyLine, hc, hd]
      exact h1
    · dsimp only
      rw [Staging.applyLine_of_due (w := ⟨{ s with link := k }, began⟩) hc hd, Staging.applyLine_of_due (w := ⟨s, began⟩) hc hd]
      have e := h3 k
      dsimp only at e
      rw [show State.setChannel { s with link := k } ch (some (c.undeliver l)) =
        { s.setChannel ch (some (c.undeliver l)) with link := k } from rfl, e]

end State.Delivers

/-! ### A tick -/

@[simp] theorem Staging.applyLine_fabric (w : Staging) (ch : ChannelId) (l : LineId) :
    (w.applyLine ch l).state.fabric = w.state.fabric :=
  ((State.Plays.refl ch w.state).applyLine l).fabric

/-- Lines of the delivery stage, one after the other, keep within the budget. -/
theorem Staging.foldl_emits (ch : ChannelId) (limit : Nat) (ls : List LineId) :
    ∀ (s : State) (c : Channel) (began : Bool) (n j : Nat), s.channels[ch] = some c → s.fabric.carriers ch .limit lines = limit →
      n ≤ c.stageBudget limit j →
      ∃ (bs : List ReportBody) (w : Staging) (c' : Channel), w.state.channels[ch] = some c' ∧ w.state.fabric = s.fabric ∧
        n + bs.length ≤ c'.stageBudget limit (j + ls.length) ∧
        ∀ k : Link, ls.foldl (fun w l => w.applyLine ch l) (⟨{ s with link := k }, began⟩ : Staging) =
          ⟨{ w.state with link := bs.foldl Link.append k }, w.began⟩ := by
  induction ls with
  | nil => exact fun s c began n j hc _ hn => ⟨[], ⟨s, began⟩, c, hc, rfl, hn, fun k => rfl⟩
  | cons l ls ih =>
    intro s c began n j hc hl hn
    obtain ⟨bs, c', h1, h2, h3⟩ := State.Delivers.applyLine hc began l
    have hf : (Staging.applyLine ⟨s, began⟩ ch l).state.fabric = s.fabric := Staging.applyLine_fabric ..
    rw [hl] at h2
    obtain ⟨cs, w, c'', g1, gf, g2, g3⟩ := ih (Staging.applyLine ⟨s, began⟩ ch l).state c'
      (Staging.applyLine ⟨s, began⟩ ch l).began (n + bs.length) (j + 1) h1 (by rw [hf, hl]) (h2 n j hn)
    refine ⟨bs ++ cs, w, c'', g1, gf.trans hf, ?_, fun k => ?_⟩
    · rw [List.length_append, List.length_cons, ← Nat.add_assoc, (by omega : j + (ls.length + 1) = j + 1 + ls.length)]
      exact g2
    · have e := h3 k
      dsimp only at e
      rw [List.foldl_cons, e, g3, List.foldl_append]

/-- A tick of a channel has nothing to do with the link unit but to raise at most 64 reports. -/
theorem State.tickChannel_emits (s : State) (ch : ChannelId) (sample : Sample) :
    State.EmitsUpTo (fun s => s.tickChannel ch sample) s 64 := by
  cases hc : s.channels[ch] with
  | none =>
    have stage : ∀ t : State, t.channels[ch] = none → t.deliveryStage ch = ⟨t, false⟩ := by
      intro t ht
      have all : ∀ ls : List LineId, ls.foldl (fun w l => w.applyLine ch l) (⟨t, false⟩ : Staging) = ⟨t, false⟩ := by
        intro ls
        induction ls with
        | nil => rfl
        | cons l ls ih =>
          rw [List.foldl_cons, show Staging.applyLine ⟨t, false⟩ ch l = ⟨t, false⟩ by simp only [Staging.applyLine, ht]]
          exact ih
      exact all lines
    refine ((State.EmitsUpTo.id s).congr fun k => ?_).mono (Nat.zero_le _)
    have hk : State.deliveryStage { s with link := k } ch = _ := stage _ hc
    simp only [State.tickChannel, hk, State.ownWork, hc]
  | some c =>
    obtain ⟨bs, w, c', h1, hf, h2, h3⟩ := Staging.foldl_emits ch _ lines s c false 0 0 hc rfl (Nat.zero_le _)
    obtain ⟨cs, g1, g2⟩ := State.EmitsUpTo.ownWork w.state ch sample w.began h1
    have tick : ∀ k : Link, State.tickChannel { s with link := k } ch sample =
        { w.state.ownWork ch sample w.began with link := (bs ++ cs).foldl Link.append k } := by
      intro k
      have stage : State.deliveryStage { s with link := k } ch = _ := h3 k
      rw [State.tickChannel, stage, List.foldl_append]
      exact g2 _
    refine ⟨bs ++ cs, ?_, fun k => ?_⟩
    · have := c'.budget_le (s.fabric.carriers_le ch .limit)
      rw [hf] at g1
      rw [List.length_append]
      rw [Nat.zero_add, Nat.zero_add, show lines.length = 8 from rfl] at h2
      omega
    · have self : s.tickChannel ch sample = _ := tick s.link
      dsimp only
      rw [tick k, self]

/-- The turn of a channel at a base tick has nothing to do with the link unit but to raise at most 64 reports. -/
theorem State.channelTurn_emits (s : State) (ch : ChannelId) (pins : Vector Sample 20) :
    State.EmitsUpTo (fun s => s.channelTurn ch pins) s 64 := by
  cases hc : s.channels[ch] with
  | none => exact ((State.EmitsUpTo.id s).congr fun k => by simp only [State.channelTurn, hc]).mono (Nat.zero_le _)
  | some c =>
    by_cases ht : s.timebases[c.timebase].tick = .noTick
    · exact ((State.EmitsUpTo.id s).congr fun k => by simp only [State.channelTurn, hc, if_pos ht]).mono (Nat.zero_le _)
    · have taken : State.EmitsUpTo
          (fun s => { s with timebases := s.timebases.set c.timebase (s.timebases[c.timebase].take) }) s 0 :=
        State.EmitsUpTo.quiet fun _ => rfl
      exact (taken.comp (State.tickChannel_emits _ ch pins[c.pin])).congr fun k => by
        simp only [State.channelTurn, hc, if_neg ht]

/-! ### The reports of a tick -/

/-- Reports that find room join the queue in order. -/
theorem Link.foldl_append_reports (bs : List ReportBody) (k : Link) (h : k.reports.length + bs.length ≤ 64) :
    (bs.foldl Link.append k).reports.map Report.body = k.reports.map Report.body ++ bs := by
  induction bs generalizing k with
  | nil => simp
  | cons b bs ih =>
    rw [List.length_cons] at h
    have hk : k.append b = { k with reports := k.reports ++ [{ seq := k.nextSeq, body := b }], nextSeq := k.nextSeq + 1 } :=
      if_pos (by simp only [Config.reportSlots]; omega)
    rw [List.foldl_cons, ih _ (by rw [hk]; simp only [List.length_append, List.length_singleton]; omega), hk]
    simp

/-- What a channel's turn raises: the reports that it puts into an empty queue, and no others, whatever the link unit is. -/
theorem State.channelTurn_raises (s : State) (ch : ChannelId) (pins : Vector Sample 20) (k : Link) :
    State.channelTurn { s with link := k } ch pins =
      { s.channelTurn ch pins with
        link := ((State.channelTurn { s with link := Link.cold } ch pins).link.reports.map Report.body).foldl Link.append k } := by
  obtain ⟨bs, hb, e⟩ := State.channelTurn_emits s ch pins
  have e : ∀ k : Link, State.channelTurn { s with link := k } ch pins = _ := e
  rw [e k, e Link.cold, Link.foldl_append_reports bs Link.cold (by simpa [Link.cold] using hb)]
  rfl

end Sys2Proof.Machine
end

