-- ==== Sys2Proof/Laws/Store.lean ====
section
/-! SUPPORT. What taking and releasing references does to the pattern store (R14 to R16), and what makes a channel FREE (R36). -/

namespace Sys2Proof.Machine

/-- A release and then another: what both give up is added. -/
theorem PatternStore.Recounted.trans {a b c : PatternStore} {taken x y : PatternId → Nat} (h1 : a.Recounted b taken x)
    (h2 : b.Recounted c (fun _ => 0) y) : a.Recounted c taken (fun p => x p + y p) := by
  refine ⟨by rw [h2.1, h1.1], fun p => ?_⟩
  rw [h2.2 p, h1.2 p]
  simp [Nat.sub_sub]

theorem PatternStore.retain_recounted (t : PatternStore) (p : PatternId) :
    t.Recounted (t.retain p) (fieldRefs (some p)) (fun _ => 0) := by
  refine ⟨rfl, fun q => ?_⟩
  by_cases e : p = q
  · subst e
    simp [PatternStore.retain, fieldRefs]
  · simp [PatternStore.retain, fieldRefs, e, show ¬p.val = q.val from fun k => e (Fin.ext k)]

theorem PatternStore.release_recounted (t : PatternStore) (p : PatternId) :
    t.Recounted (t.release p) (fun _ => 0) (fieldRefs (some p)) := by
  refine ⟨rfl, fun q => ?_⟩
  by_cases e : p = q
  · subst e
    simp [PatternStore.release, fieldRefs]
  · simp [PatternStore.release, fieldRefs, e, show ¬p.val = q.val from fun k => e (Fin.ext k)]

theorem PatternStore.releaseField_recounted (t : PatternStore) (p : Option PatternId) :
    t.Recounted (t.releaseField p) (fun _ => 0) (fieldRefs p) := by
  cases p with
  | none => exact ⟨rfl, fun q => by simp [PatternStore.releaseField, fieldRefs]⟩
  | some p => exact t.release_recounted p

theorem PatternStore.releaseRole_recounted (t : PatternStore) (r : Role) :
    t.Recounted (t.releaseRole r) (fun _ => 0) r.refs := by
  cases r with
  | input i => exact ⟨rfl, fun q => by simp [PatternStore.releaseRole, Role.refs]⟩
  | output o => exact (t.releaseField_recounted o.active).trans (PatternStore.releaseField_recounted _ _)

/-- R36. -/
theorem State.freeChannel_freed (s : State) (ch : ChannelId) (c : Channel) : s.Freed (s.freeChannel ch c) ch c := by
  refine ⟨rfl, s.store.releaseRole_recounted c.role, fun l e => ?_, fun l d a => ?_⟩
  · simp only [State.freeChannel, Fabric.without, getElem_ofFn_fin]
    cases s.fabric.emitters[l] with
    | none => simp
    | some f => by_cases k : f.source = ch <;> simp [k] <;> rintro rfl <;> assumption
  · by_cases k : d = ch
    · subst k
      simp [State.freeChannel, Fabric.without]
    · simp [State.freeChannel, Fabric.without, k, show ¬ch.val = d.val from fun e => k (Fin.ext e.symm)]

/-- R26, R31: some channel bound to the timebase has the property. -/
theorem State.anyOn_eq_true {s : State} {t : TimebaseId} {p : Channel → Bool} :
    s.anyOn t p = true ↔ ∃ (ch : ChannelId) (c : Channel), s.channels[ch] = some c ∧ c.timebase = t ∧ p c = true := by
  simp only [State.anyOn, List.any_eq_true]
  constructor
  · rintro ⟨ch, _, h⟩
    split at h
    · cases h
    · rename_i c hc
      simp only [Bool.and_eq_true, decide_eq_true_eq] at h
      exact ⟨ch, c, hc, h.1, h.2⟩
  · rintro ⟨ch, c, hc, h1, h2⟩
    refine ⟨ch, ?_, ?_⟩
    · rw [channelIds_eq]
      simp
    · rw [hc]
      simp [h1, h2]

end Sys2Proof.Machine
end

