-- ==== Sys2Proof/Tests/Slice0.lean ====
section
/-! SUPPORT. The model's own tests: ill-formed commands that WellFormed refuses, worked examples of the spec, and, for each statement
of Certificates/Slice0/Obligations.lean with hypotheses, a state and operands that meet them. -/

namespace Sys2Proof.Tests

open Sys2Proof.Machine

/-! ### Ill-formed commands -/

set_option maxRecDepth 20000 in
/-- A body of 249 bytes does not fit a frame. -/
theorem test_wellFormed_long_body : (Instr.grant 0 (List.replicate 249 0)).wellFormed = false := by decide
/-- BAD_KIND does not carry an assigned request code (0x2A is START). -/
theorem test_wellFormed_assigned_kind : (Instr.badKind 0x2A 0 []).wellFormed = false := by decide
/-- BAD_KIND does not carry a KIND of 0x80 or above. -/
theorem test_wellFormed_reply_kind : (Instr.badKind 0x80 0 []).wellFormed = false := by decide
set_option maxRecDepth 20000 in
/-- BAD_KIND's body fits a frame. -/
theorem test_wellFormed_badKind_body : (Instr.badKind 0x2C 0 (List.replicate 249 0)).wellFormed = false := by decide
/-- BAD_LEN does not carry a LEN that names a length. -/
theorem test_wellFormed_good_len : (Instr.badLen 2).wellFormed = false ∧ (Instr.badLen 250).wellFormed = false := by decide
set_option maxRecDepth 20000 in
/-- What can be sent is well formed. -/
theorem test_wellFormed_accepts :
    (Instr.grant 0 (List.replicate 248 0)).wellFormed = true ∧ (Instr.badKind 0x2C 0x22 []).wellFormed = true ∧
    (Instr.badLen 251).wellFormed = true ∧ Instr.linkReset.wellFormed = true := by decide

/-! ### Small states -/

/-- HIGH for 2 ticks with the mark flag set, then LOW for 1; twice; rest level LAST. -/
def pat : Pattern := { segments := [⟨2, .high, true⟩, ⟨1, .low, false⟩], repeatCount := 2, rest := .last }

/-- After cold reset, with patterns 0 and 1 defined. -/
def stored : State :=
  { State.reset with
    store := { rows := (PatternStore.empty.rows.set 0 ⟨some pat, 0⟩).set 1 ⟨some pat, 0⟩, free := 252, defined := 2 } }

/-- An output channel on P3 and TB0. -/
def outChannel (a : Activity) (o : OutputRole) : Channel :=
  { activity := a, pin := 3, timebase := 0, frozen := false, startCondition := .trigger, rearm := false,
    haltReason := .none, deliveries := Vector.replicate 8 none, role := .output o }

/-- At rest with pattern 0 active. -/
def outRole : OutputRole :=
  { idleLevel := .low, active := some 0, staged := none, segIndex := 0, ticksLeft := none, reps := 0, doneLevel := none }

/-- An input channel on P4 and TB0. -/
def inChannel (a : Activity) (i : InputRole) : Channel :=
  { activity := a, pin := 4, timebase := 0, frozen := false, startCondition := .trigger, rearm := false,
    haltReason := .none, deliveries := Vector.replicate 8 none, role := .input i }

/-- Edge select RISE, no window, no timeout, limit 1, with accepted level LOW. -/
def inRole : InputRole :=
  { edgeSelect := .rise, window := 0, timeoutWindow := 0, timeoutAction := .report, mode := .plain, limit := 1,
    accepted := some .low, qual := none, captures := 0, lastCapture := none, timeoutLeft := none }

/-- `stored` with channel 3 bound. -/
def at3 (c : Channel) : State := stored.setChannel 3 (some c)

/-- A pending delivery whose first event was at 0. -/
def fromLine (c : Channel) (l : LineId) (a : Action) : Channel :=
  { c with deliveries := c.deliveries.set l (some ⟨a, 0, 1⟩) }

/-- `at3` ten base ticks after the reset. -/
def later (c : Channel) : State := { at3 c with time := 10 }

/-- With LRX read so far. -/
def reading (q : Receiver) : State := { State.reset with link := { State.reset.link with receiver := q } }

/-! ### Worked examples of the spec -/

set_option maxRecDepth 20000 in
/-- R141: the CRC of the digits 1 to 9. -/
theorem test_crc : crcOf [0x31, 0x32, 0x33, 0x34, 0x35, 0x36, 0x37, 0x38, 0x39] = 0x29B1 := by decide

/-- 00_scope.md, "Ahead and not ahead". -/
theorem test_ahead :
    ahead 0x000000000010 0xFFFFFFFFFFF0 = true ∧ ahead 0xFFFFFFFFFFE0 0xFFFFFFFFFFF0 = false ∧ ahead 5 5 = false := by decide

/-- Section 10.7: the CAPTURE report of CH8. -/
theorem test_capture_report :
    (reportFrame { seq := 0x0123, body := .capture 8 .rise 2 31200 (some 700) }).body =
      [0x01, 0x23, 0x08, 0x00, 0x00, 0x02, 0x00, 0x00, 0x00, 0x00, 0x79, 0xE0, 0x01, 0x00, 0x00, 0x00, 0x00, 0x02, 0xBC] := by
  decide

/-- The newest reply waiting after a command. -/
def lastReply (o : Host.Outcome State Fault Refusal) : Option Frame :=
  match o with
  | .next t => t.link.replies.getLast?
  | _ => none

/-- Section 10.7: START of CH3 with AT 20,000, executed at 12,000, and the same at a time that is not ahead. -/
theorem test_start_reply :
    lastReply (exec (.start 0x21 [0x03, 0x01, 0x00, 0, 0, 0, 0, 0x4E, 0x20]) { at3 (outChannel .idle outRole) with time := 12000 })
      = some { kind := 0xAA, tag := 0x21, body := [0x00, 0, 0, 0, 0, 0x2E, 0xE0] } ∧
    lastReply (exec (.start 0x21 [0x03, 0x01, 0x00, 0, 0, 0, 0, 0x4E, 0x20]) { at3 (outChannel .idle outRole) with time := 20000 })
      = some { kind := 0xAA, tag := 0x21, body := [0x0C] } := by decide

/-- Section 10.7: KIND 0x2C is unassigned. -/
theorem test_bad_kind_reply :
    lastReply (exec (.badKind 0x2C 0x22 []) State.reset) = some { kind := 0x80, tag := 0x22, body := [0x02] } := by decide

/-- R78, R166: ASSIGN outside RUNNING answers ACTIVE, the active id and 0xFF. -/
theorem test_assign_reply :
    lastReply (exec (.assign 0x30 [3, 1, 0]) (at3 (outChannel .idle outRole))) =
      some { kind := 0xA8, tag := 0x30, body := [0, 0, 1, 0xFF] } := by decide

/-- R54, R55: the second tick of segment 0 ends it, and the pin goes from HIGH to LOW. -/
theorem test_segment_end_level :
    (match exec (.segmentEnd 3 .low) (at3 (outChannel .running { outRole with ticksLeft := some 1 })) with
      | .next t => (t.channels[3]).map fun c => (c.activity, t.outputLevel c { outRole with segIndex := 1 })
      | _ => none) = some (.running, .low) := by decide

/-! ### The hypotheses of the statements can be met -/

theorem witness_RequestIsTakenOrArrives :
    State.reset.takes ⟨0x01, 0, []⟩ = true ∧
    ({ State.reset with link := { State.reset.link with requests := [⟨0x01, 0, []⟩] } } : State).takes ⟨0x01, 0, []⟩ = true ∧
    ({ State.reset with link := { State.reset.link with replies := List.replicate 8 ⟨0x80, 1, [2]⟩ } } : State).takes
      ⟨0x7F, 0, []⟩ = false ∧
    State.reset.enterColdReset.takes ⟨0x00, 0, []⟩ = false := by decide

/-- A link unit with tag 1 in the replay table and tag 2 waiting. -/
def someLink (waiting : List Request) : Link :=
  { Link.cold with requests := waiting
                   replay := [{ tag := 1, crc := (Request.mk 0x01 1 []).crc, reply := ⟨0x81, 1, [0]⟩ }] }

set_option maxRecDepth 20000 in
theorem witness_ArrivalChecks :
    ((someLink [⟨0x02, 2, []⟩]).requests.map Request.tag ++ (someLink [⟨0x02, 2, []⟩]).replay.map ReplayEntry.tag).Nodup ∧
    (∃ e ∈ (someLink []).replay, e.tag = (Request.mk 0x01 1 []).tag ∧ e.crc = (Request.mk 0x01 1 []).crc) ∧
    (∀ e ∈ (someLink []).replay, e.tag = (Request.mk 0x02 1 []).tag → e.crc ≠ (Request.mk 0x02 1 []).crc) ∧
    (Request.mk 0x02 2 []).tag ∈ (someLink [⟨0x02, 2, []⟩]).requests.map Request.tag ∧
    4 ≤ (someLink [⟨1, 2, []⟩, ⟨1, 3, []⟩, ⟨1, 4, []⟩, ⟨1, 5, []⟩]).requests.length := by decide

theorem witness_EveryTakenRequestIsAnswered :
    (Request.mk 0x7F 0xFF [1]).kind.toNat < 0x80 ∧ State.reset.takes ⟨0x7F, 0xFF, [1]⟩ = true := by decide

set_option maxRecDepth 20000 in
theorem witness_MalformedDefineAndStartAreRefused :
    State.reset.takes ⟨0x10, 0, List.replicate 4 0⟩ = true ∧ State.reset.takes ⟨0x10, 0, List.replicate 199 0⟩ = true ∧
    State.reset.takes ⟨0x2A, 0, [3, 1, 0]⟩ = true ∧
    State.reset.takes ⟨0x10, 0, [32, 0, 0, 0, 0, 0, 0, 0]⟩ = true ∧
    State.reset.takes ⟨0x2A, 0, [15, 2, 1]⟩ = true ∧ State.reset.takes ⟨0x2A, 0, [16, 0, 0]⟩ = true := by decide

/-- The clause `RefusesLength` of the statements on the requests of a fixed length. -/
theorem witness_RefusesLength :
    ∀ k ∈ ([(0x01, 0), (0x02, 0), (0x03, 1), (0x04, 0), (0x05, 3), (0x06, 0), (0x07, 0), (0x11, 1), (0x12, 1), (0x20, 4),
        (0x21, 1), (0x22, 2), (0x23, 10), (0x24, 1), (0x25, 1), (0x26, 1), (0x28, 3), (0x29, 1), (0x2B, 1), (0x30, 4),
        (0x31, 1), (0x32, 3), (0x33, 2), (0x34, 0)] : List (Byte × Nat)),
      State.reset.takes ⟨k.1, 0, List.replicate (k.2 + 1) 0⟩ = true ∧ (List.replicate (k.2 + 1) (0 : Byte)).length ≠ k.2 := by
  decide

theorem witness_DeviceQueriesTell :
    State.reset.takes ⟨0x01, 0, []⟩ = true ∧ State.reset.takes ⟨0x02, 0, []⟩ = true := by decide

theorem witness_GrantRaisesCredit :
    State.reset.takes ⟨0x03, 0, [0]⟩ = true ∧ State.reset.takes ⟨0x03, 0, [65]⟩ = true ∧
    State.reset.takes ⟨0x03, 0, [1]⟩ = true ∧ State.reset.takes ⟨0x03, 0, [64]⟩ = true := by decide

theorem witness_DeviceResetResetsAllButFrozen :
    (at3 { outChannel .running outRole with frozen := true }).takes ⟨0x04, 0, []⟩ = true ∧
    (at3 { outChannel .running outRole with frozen := true }).isFrozen 3 = true ∧
    (at3 { outChannel .running outRole with frozen := true }).isFrozen 0 = false := by decide

theorem witness_SetTimebaseRestarts :
    (at3 (outChannel .done outRole)).takes ⟨0x05, 0, [3, 0xFF, 0xFF]⟩ = true ∧
    (at3 (outChannel .done outRole)).takes ⟨0x05, 0, [4, 0, 0]⟩ = true ∧
    (at3 (outChannel .running outRole)).channels[3] = some (outChannel .running outRole) ∧
    (outChannel .running outRole).timebase = 0 ∧ (outChannel .running outRole).inPlay = true := by decide

theorem witness_HoldBeginsAndEnds :
    State.reset.takes ⟨0x06, 0, []⟩ = true ∧ State.reset.hold.request = false ∧ State.reset.hold.pinHold = .deasserted ∧
    State.reset.takes ⟨0x07, 0, []⟩ = true ∧
    ({ State.reset with hold := ⟨.asserted, 0, true⟩ } : State).takes ⟨0x07, 0, []⟩ = true ∧
    ({ State.reset with hold := ⟨.deasserted, 0, true⟩ } : State).takes ⟨0x07, 0, []⟩ = true ∧
    State.reset.inColdReset = false ∧ ({ State.reset with hold := ⟨.asserted, 0, false⟩ } : State).inColdReset = false := by
  decide

theorem witness_DefinePatternWritesRow :
    pat.Sound ∧
    stored.takes ⟨0x10, 0, [31, 0, 2, 3, 1, 0, 1, 0x81, 0, 0, 0]⟩ = true ∧
    [idByte (31 : PatternId)] ++ bytes2 pat.repeatCount ++ [restByte pat.rest, byte1 (pat.segments.length - 1)] ++
      pat.segments.flatMap segmentBytes = [31, 0, 2, 3, 1, 0, 1, 0x81, 0, 0, 0] ∧
    (stored.store.rows[31]).pattern = none ∧ (stored.store.rows[1]).pattern = some pat ∧
    pat.segments.length ≤ stored.store.free := by
  unfold Pattern.Sound
  decide

theorem witness_PatternRowsAreDeletedAndTold :
    stored.takes ⟨0x11, 0, [32]⟩ = true ∧ stored.takes ⟨0x11, 0, [31]⟩ = true ∧ stored.takes ⟨0x11, 0, [0]⟩ = true ∧
    (stored.store.rows[0]).pattern = some pat ∧ (stored.store.rows[0]).users = 0 ∧ (stored.store.rows[31]).pattern = none ∧
    stored.takes ⟨0x12, 0, [0]⟩ = true := by decide

theorem witness_BindMakesRecord :
    State.reset.takes ⟨0x20, 0, [15, 1, 19, 3]⟩ = true ∧ State.reset.channels[15] = none ∧ State.reset.pinTable[19] = none ∧
    State.reset.takes ⟨0x20, 0, [16, 2, 20, 4]⟩ = true ∧
    (at3 (outChannel .idle outRole)).takes ⟨0x20, 0, [3, 0, 0, 0]⟩ = true ∧
    (at3 (outChannel .idle outRole)).channels[3] = some (outChannel .idle outRole) := by decide

theorem witness_UnbindFreesChannel :
    (at3 (outChannel .halted outRole)).takes ⟨0x21, 0, [3]⟩ = true ∧
    (at3 (outChannel .halted outRole)).channels[3] = some (outChannel .halted outRole) ∧
    (outChannel .halted outRole).frozen = false ∧ (outChannel .halted outRole).inPlay = false ∧
    (outChannel .waiting outRole).inPlay = true ∧ (at3 (outChannel .halted outRole)).takes ⟨0x21, 0, [16]⟩ = true ∧
    (at3 (outChannel .halted outRole)).channels[15] = none := by decide

theorem witness_ClearChannelDropsPlay :
    (at3 (inChannel .running inRole)).takes ⟨0x25, 0, [3]⟩ = true ∧
    (at3 (inChannel .running inRole)).channels[3] = some (inChannel .running inRole) ∧
    (at3 { outChannel .running outRole with frozen := true }).takes ⟨0x25, 0, [3]⟩ = true := by decide

theorem witness_FreezeSetsFlag :
    (at3 (inChannel .running inRole)).takes ⟨0x24, 0, [3]⟩ = true ∧
    (at3 (inChannel .running inRole)).channels[3] = some (inChannel .running inRole) ∧
    State.reset.takes ⟨0x24, 0, [15]⟩ = true ∧ State.reset.takes ⟨0x24, 0, [16]⟩ = true := by decide

theorem witness_QueryChannelTellsRecord :
    (at3 (inChannel .running inRole)).takes ⟨0x26, 0, [3]⟩ = true ∧
    (at3 (inChannel .running inRole)).channels[3] = some (inChannel .running inRole) ∧
    (at3 (outChannel .running outRole)).takes ⟨0x26, 0, [15]⟩ = true ∧ State.reset.takes ⟨0x26, 0, [0xFF]⟩ = true := by decide

theorem witness_ConfigurationIsSet :
    (at3 (outChannel .done { outRole with doneLevel := some .high })).takes ⟨0x22, 0, [3, 2]⟩ = true ∧
    (outChannel .done { outRole with doneLevel := some .high }).inPlay = false ∧
    (at3 (outChannel .idle outRole)).takes ⟨0x22, 0, [3, 3]⟩ = true ∧
    (at3 (inChannel .idle inRole)).takes ⟨0x23, 0, [3, 2, 0xFF, 0xFF, 0, 0, 1, 1, 0, 0]⟩ = true ∧
    (inChannel .idle inRole).frozen = false ∧ (inChannel .idle inRole).inPlay = false ∧
    (inChannel .idle inRole).role = .input inRole := by decide

theorem witness_AssignActivatesOrStages :
    (at3 (outChannel .running outRole)).takes ⟨0x28, 0, [3, 1, 1]⟩ = true ∧
    (at3 (outChannel .running outRole)).channels[3] = some (outChannel .running outRole) ∧
    ((at3 (outChannel .running outRole)).store.rows[1]).pattern ≠ none ∧
    ((at3 (outChannel .running outRole)).store.rows[31]).pattern = none ∧
    (at3 (outChannel .waiting outRole)).takes ⟨0x28, 0, [3, 0, 0]⟩ = true ∧
    (at3 (inChannel .idle inRole)).takes ⟨0x28, 0, [15, 31, 2]⟩ = true := by decide

theorem witness_UnstageReleasesStaged :
    (at3 (outChannel .halted { outRole with staged := some ⟨1, .cycle⟩ })).takes ⟨0x29, 0, [3]⟩ = true ∧
    (outChannel .halted { outRole with staged := some ⟨1, .cycle⟩ }).role =
      .output { outRole with staged := some ⟨1, .cycle⟩ } ∧
    (at3 (inChannel .idle inRole)).takes ⟨0x29, 0, [3]⟩ = true := by decide

theorem witness_StartOnOutputChannel :
    (at3 (outChannel .idle outRole)).takes ⟨0x2A, 0, startBody 3 .trigger true⟩ = true ∧
    (at3 (outChannel .idle outRole)).takes ⟨0x2A, 0, startBody 3 (.next 0) false⟩ = true ∧
    (at3 (outChannel .idle outRole)).takes ⟨0x2A, 0, startBody 3 (.at 1) false⟩ = true ∧
    (at3 (outChannel .idle outRole)).takes ⟨0x2A, 0, startBody 3 (.at 0) false⟩ = true ∧
    (at3 (outChannel .idle outRole)).time = 0 ∧ (at3 (outChannel .idle outRole)).holdActive = false ∧
    (at3 (outChannel .idle outRole)).channels[3] = some (outChannel .idle outRole) ∧
    (outChannel .idle outRole).inPlay = false ∧ (outChannel .idle outRole).role = .output outRole := by decide

theorem witness_StartOnInputChannel :
    (at3 (inChannel .done inRole)).takes ⟨0x2A, 0, startBody 3 .trigger true⟩ = true ∧
    (at3 (inChannel .done inRole)).takes ⟨0x2A, 0, startBody 3 (.at 0) false⟩ = true ∧
    (at3 (inChannel .done inRole)).channels[3] = some (inChannel .done inRole) ∧
    (inChannel .done inRole).inPlay = false ∧ (inChannel .running inRole).inPlay = true := by decide

theorem witness_StopHaltsChannelInPlay :
    (at3 (outChannel .running outRole)).takes ⟨0x2B, 0, [3]⟩ = true ∧
    (at3 (outChannel .running outRole)).channels[3] = some (outChannel .running outRole) ∧
    (outChannel .running outRole).inPlay = true ∧ (outChannel .done outRole).inPlay = false ∧
    (at3 (outChannel .done outRole)).takes ⟨0x2B, 0, [16]⟩ = true := by decide

/-- CH3 bound, with its DONE on line 0 and a listener of its own on line 7. -/
def wired (c : Channel) : State :=
  { at3 c with
    fabric := { emitters := Fabric.empty.emitters.set 0 (some ⟨3, .done, true⟩)
                listeners := Fabric.empty.listeners.set 7 (Fabric.empty.listeners[7].set 3 (some .start)) } }

theorem witness_EmitterEntriesAreSetAndCleared :
    (at3 (outChannel .idle outRole)).takes ⟨0x30, 0, [7, 3, 4, 1]⟩ = true ∧
    (at3 (outChannel .idle outRole)).fabric.emitters[7] = none ∧
    (wired (outChannel .idle outRole)).takes ⟨0x30, 0, [0, 3, 0, 0]⟩ = true ∧
    (wired (outChannel .idle outRole)).fabric.emitters[0] ≠ none ∧
    (at3 (outChannel .idle outRole)).takes ⟨0x30, 0, [0, 3, 5, 0]⟩ = true ∧
    (at3 (outChannel .idle outRole)).takes ⟨0x30, 0, [8, 15, 0, 0]⟩ = true ∧
    (wired (outChannel .idle outRole)).takes ⟨0x31, 0, [0]⟩ = true ∧
    (wired (outChannel .idle outRole)).isFrozen 3 = false ∧
    (wired (outChannel .idle outRole)).fabric.emitters[0] = some ⟨3, .done, true⟩ := by decide

theorem witness_ListenerEntriesAreAddedAndRemoved :
    (wired (outChannel .idle outRole)).takes ⟨0x32, 0, [0, 3, 3]⟩ = true ∧
    (wired (outChannel .idle outRole)).fabric.listeners[0][3] = none ∧
    (wired (outChannel .idle outRole)).takes ⟨0x32, 0, [7, 3, 0]⟩ = true ∧
    (wired (outChannel .idle outRole)).fabric.listeners[7][3] = some .start ∧
    (wired (outChannel .idle outRole)).takes ⟨0x32, 0, [0, 3, 4]⟩ = true ∧
    (wired (outChannel .idle outRole)).takes ⟨0x32, 0, [8, 15, 5]⟩ = true ∧
    (wired (outChannel .idle outRole)).takes ⟨0x33, 0, [7, 3]⟩ = true ∧
    (wired (outChannel .idle outRole)).isFrozen 3 = false := by decide

theorem witness_QueryFabricTellsTables : (wired (outChannel .idle outRole)).takes ⟨0x34, 0, []⟩ = true := by decide

theorem witness_UnassignedKindIsRefused :
    State.reset.takes ⟨0x00, 0, []⟩ = true ∧ State.reset.takes ⟨0x27, 0, [1, 2]⟩ = true ∧
    State.reset.takes ⟨0x35, 0, []⟩ = true ∧ State.reset.takes ⟨0x7F, 0, []⟩ = true := by decide

theorem witness_ByteIsTakenInReceiverState :
    (reading .hunting).inColdReset = false ∧ (reading .hunting).link.receiver = .hunting ∧
    (reading .length).link.receiver = .length ∧ (reading (.content 2 [])).link.receiver = .content 2 [] ∧
    (reading (.content 2 [1])).link.receiver = .content 2 [1] ∧
    (reading (.trailer [1, 2] none)).link.receiver = .trailer [1, 2] none ∧
    (reading (.trailer [1, 2] (some 3))).link.receiver = .trailer [1, 2] (some 3) := by decide

set_option maxRecDepth 20000 in
theorem witness_FrameIsJudged :
    (reading (.trailer [0x01, 0] (some 0xFF))).inColdReset = false ∧
    (reading (.trailer [0x01, 0] (some 0xFF))).link.receiver = .trailer [0x01, 0] (some 0xFF) ∧
    (∃ hi lo : Byte, crcOf (byte1 2 :: [0x01, 0]) = hi ++ lo) ∧ (∃ hi lo : Byte, crcOf (byte1 2 :: [0x80, 0]) = hi ++ lo) :=
  ⟨by decide, by decide, ⟨(crcOf (byte1 2 :: [0x01, 0])).extractLsb' 8 8, (crcOf (byte1 2 :: [0x01, 0])).extractLsb' 0 8, by decide⟩,
    ⟨(crcOf (byte1 2 :: [0x80, 0])).extractLsb' 8 8, (crcOf (byte1 2 :: [0x80, 0])).extractLsb' 0 8, by decide⟩⟩

theorem witness_FramesAreAbandoned :
    (reading .length).inColdReset = false ∧ (reading .length).link.receiver = .length ∧
    (reading .length).link.receiver ≠ .hunting ∧ ((1 : Byte).toNat < 2 ∨ 250 < (1 : Byte).toNat) ∧
    ((251 : Byte).toNat < 2 ∨ 250 < (251 : Byte).toNat) := by decide

theorem witness_RowsOutOfPlaceDoNothing :
    (reading .hunting).link.receiver ≠ .length ∧ (reading .hunting).link.receiver = .hunting ∧
    State.reset.enterColdReset.inColdReset = true := by decide

theorem witness_LinkResetEmptiesLink : State.reset.inColdReset = false := by decide

theorem witness_TransmitterTakesNextFrame :
    State.reset.inColdReset = false ∧ State.reset.link.replies = [] ∧ State.reset.link.credit = 0 ∧
    ({ State.reset with link := { State.reset.link with credit := 1, lost := 1 } } : State).link.reports =
      [{ seq := 0, body := .notice .coldStart 0 }] ∧
    1 ≤ ({ State.reset with link := { State.reset.link with credit := 1, lost := 1 } } : State).link.credit ∧
    ({ State.reset with link := { State.reset.link with replies := [⟨0x80, 0, [2]⟩] } } : State).link.replies =
      [⟨0x80, 0, [2]⟩] ∧
    ({ State.reset.link with gapDue := true, lost := 1 } : Link).reports.length < 64 := by decide

theorem witness_QuietAndNamedTicks :
    (at3 (outChannel .waiting outRole)).channels[3] = some (outChannel .waiting outRole) ∧
    (∀ l : LineId, (outChannel .waiting outRole).deliveries[l] = none) ∧ State.reset.channels[3] = none ∧
    (at3 (outChannel .running { outRole with ticksLeft := some 1 })).channels[3] =
      some (outChannel .running { outRole with ticksLeft := some 1 }) ∧
    (later { inChannel .waiting inRole with startCondition := .next 9 }).channels[3] =
      some { inChannel .waiting inRole with startCondition := .next 9 } ∧ ahead 10 9 = true ∧
    (at3 (inChannel .running { inRole with timeoutLeft := some 1 })).channels[3] =
      some (inChannel .running { inRole with timeoutLeft := some 1 }) ∧
    inRole.Accepts .low .high 0 .high 0 ∧
    InputRole.Sampled { inRole with timeoutLeft := some 1 } .low .low 0 { inRole with timeoutLeft := some 1 } ∧
    (fromLine (outChannel .idle outRole) 7 .start).FirstDue 10 7 ⟨.start, 0, 1⟩ :=
  ⟨by decide, by decide, by decide, by decide, by decide, by decide, by decide, .atOnce rfl (by decide) rfl, .steady rfl rfl,
    by decide, by decide, fun k e hk h => by
      have none : ∀ k : LineId, k < 7 → (fromLine (outChannel .idle outRole) 7 .start).deliveries[k] = none := by decide
      rw [none k hk] at h; cases h⟩

theorem witness_SegmentLastsItsTicks :
    (at3 (outChannel .running { outRole with ticksLeft := some 2 })).inColdReset = false ∧
    (at3 (outChannel .running { outRole with ticksLeft := some 2 })).channels[3] =
      some (outChannel .running { outRole with ticksLeft := some 2 }) ∧
    (∀ l : LineId, (outChannel .running outRole).deliveries[l] = none) ∧ [Sample.low].length < 2 := by decide

theorem witness_SegmentEndBeginsNext :
    (at3 (outChannel .running { outRole with ticksLeft := some 1 })).channels[3] =
      some (outChannel .running { outRole with ticksLeft := some 1 }) ∧
    (at3 (outChannel .running { outRole with ticksLeft := some 1 })).inColdReset = false ∧
    ((at3 (outChannel .running { outRole with ticksLeft := some 1 })).store.rows[0]).pattern = some pat ∧
    pat.segments[0]? = some ⟨2, .high, true⟩ ∧ pat.segments[1]? = some ⟨1, .low, false⟩ := by decide

theorem witness_StagedPatternSwapsIn :
    (at3 (outChannel .running { outRole with ticksLeft := some 1, segIndex := 1, staged := some ⟨1, .cycle⟩ })).channels[3] =
      some (outChannel .running { outRole with ticksLeft := some 1, segIndex := 1, staged := some ⟨1, .cycle⟩ }) ∧
    ((at3 (outChannel .running { outRole with ticksLeft := some 1, segIndex := 1, staged := some ⟨1, .cycle⟩ })).store.rows[1]).pattern
      = some pat ∧
    pat.segments.length = 1 + 1 ∧ pat.segments[1]? = some ⟨1, .low, false⟩ := by decide

theorem witness_RepetitionEnds :
    (at3 (outChannel .running { outRole with ticksLeft := some 1, segIndex := 1, reps := 1 })).channels[3] =
      some (outChannel .running { outRole with ticksLeft := some 1, segIndex := 1, reps := 1 }) ∧
    pat.repeatCount ≠ 0 ∧ pat.repeatCount ≤ min (1 + 1) 65535 ∧ min (0 + 1) 65535 < pat.repeatCount ∧
    pat.segments.length = 1 + 1 := by decide

theorem witness_PinsShowLevels :
    ({ at3 (outChannel .running outRole) with pinTable := State.reset.pinTable.set 3 (some 3) } : State).pinTable[3] = some 3 ∧
    ({ at3 (outChannel .running outRole) with pinTable := State.reset.pinTable.set 3 (some 3) } : State).channels[3] =
      some (outChannel .running outRole) ∧
    ({ at3 (outChannel .running outRole) with pinTable := State.reset.pinTable.set 3 (some 3) } : State).pinTable[19] = none ∧
    ({ State.reset with link := { State.reset.link with transmission := some ⟨[0xB4, 0x02], 999⟩ } } : State).link.transmission =
      some ⟨[0xB4, 0x02], 999⟩ ∧ [(0xB4 : Byte), 0x02][1]? = some 0x02 ∧ 999 = 500 * 1 + 499 := by
  decide

theorem witness_ConditionMetEntersRunning :
    (later { outChannel .waiting outRole with startCondition := .next 9 }).channels[3] =
      some { outChannel .waiting outRole with startCondition := .next 9 } ∧
    ahead 10 9 = true ∧
    (later { inChannel .waiting { inRole with accepted := none } with startCondition := .at 10 }).channels[3] =
      some { inChannel .waiting { inRole with accepted := none } with startCondition := .at 10 } ∧
    ahead 10 10 = false ∧ (later (outChannel .waiting outRole)).inColdReset = false := by decide

/-- A delivery on line 3 above an earlier one on line 1 is the first due from line 2 on. -/
theorem dueFrom (c : Channel) (a b : Action) (h : ∀ l : LineId, c.deliveries[l] = none) :
    (fromLine (fromLine c 1 a) 3 b).FirstDueFrom 2 10 3 ⟨b, 0, 1⟩ ∧
    (fromLine (fromLine c 1 a) 3 b).FirstDueFrom 0 10 1 ⟨a, 0, 1⟩ := by
  refine ⟨⟨by simp [fromLine], (by decide : ahead 10 0 = true), by decide, fun k e hk hl he => ?_⟩,
    ⟨by simp [fromLine], (by decide : ahead 10 0 = true), by decide, fun k e _ hl he => ?_⟩⟩
  · have : k = 2 := Fin.ext (by have : k.val < 3 := hl; simp; omega)
    subst this
    have := h 2
    simp_all [fromLine]
  · have : k = 0 := Fin.ext (by have : k.val < 1 := hl; simp; omega)
    subst this
    have := h 0
    simp_all [fromLine]

theorem witness_IdleDeliveriesAreRemoved :
    (later (fromLine (outChannel .idle outRole) 7 .start)).channels[3] = some (fromLine (outChannel .idle outRole) 7 .start) ∧
    (fromLine (outChannel .idle outRole) 7 .start).deliveries[7] = some ⟨.start, 0, 1⟩ ∧ ahead 10 0 = true ∧
    (∀ l : LineId, l < 7 → (fromLine (outChannel .idle outRole) 7 .start).deliveries[l] = none) ∧
    (fromLine (fromLine (outChannel .idle outRole) 1 .restart) 3 .stop).FirstDueFrom 2 10 3 ⟨.stop, 0, 1⟩ :=
  ⟨by decide, by decide, by decide, by decide, (dueFrom _ _ _ (by decide)).1⟩

theorem witness_DeliveredStopAndStart :
    (later (fromLine (outChannel .waiting outRole) 0 .start)).channels[3] =
      some (fromLine (outChannel .waiting outRole) 0 .start) ∧
    (∀ l : LineId, l ≠ 0 → (fromLine (outChannel .waiting outRole) 0 .start).deliveries[l] = none) ∧
    (fromLine (outChannel .waiting outRole) 0 .start).startCondition = .trigger ∧
    (later (fromLine (outChannel .waiting outRole) 0 .start)).holdActive = false ∧
    (fromLine (inChannel .running inRole) 0 .stop).inPlay = true ∧
    (fromLine (inChannel .waiting inRole) 0 .start).deliveries[0] = some ⟨.start, 0, 1⟩ ∧
    (fromLine (fromLine (outChannel .waiting outRole) 1 .start) 3 .stop).FirstDueFrom 0 10 1 ⟨.start, 0, 1⟩ ∧
    (fromLine (fromLine (outChannel .running outRole) 1 .restart) 3 .stop).FirstDueFrom 2 10 3 ⟨.stop, 0, 1⟩ ∧
    (at3 (inChannel .running { inRole with accepted := none })).channels[3] =
      some (inChannel .running { inRole with accepted := none }) ∧
    (∀ l : LineId, (inChannel .running { inRole with accepted := none }).deliveries[l] = none) :=
  ⟨by decide, by decide, by decide, by decide, by decide, by decide, (dueFrom _ _ _ (by decide)).2, (dueFrom _ _ _ (by decide)).1,
    by decide, by decide⟩

theorem witness_DeliveredRestartAndSwap :
    (later (fromLine (outChannel .running { outRole with staged := some ⟨1, .segment⟩ }) 7 .swap)).channels[3] =
      some (fromLine (outChannel .running { outRole with staged := some ⟨1, .segment⟩ }) 7 .swap) ∧
    (∀ l : LineId, l ≠ 7 →
      (fromLine (outChannel .running { outRole with staged := some ⟨1, .segment⟩ }) 7 .swap).deliveries[l] = none) ∧
    (fromLine (outChannel .running outRole) 0 .restart).deliveries[0] = some ⟨.restart, 0, 1⟩ ∧ ahead 10 0 = true ∧
    (let c := outChannel .running { outRole with staged := some ⟨1, .segment⟩ }
     (fromLine (fromLine c 1 .swap) 3 .restart).FirstDueFrom 0 10 1 ⟨.swap, 0, 1⟩ ∧
     (fromLine (fromLine c 1 .swap) 3 .restart).FirstDueFrom 2 10 3 ⟨.restart, 0, 1⟩) :=
  ⟨by decide, by decide, by decide, by decide, (dueFrom _ _ _ (by decide)).2, (dueFrom _ _ _ (by decide)).1⟩

theorem witness_DeliveredStampCaptures :
    (later (fromLine (inChannel .running inRole) 7 .stamp)).channels[3] = some (fromLine (inChannel .running inRole) 7 .stamp) ∧
    (fromLine (inChannel .running inRole) 7 .stamp).deliveries[7] = some ⟨.stamp, 0, 1⟩ ∧
    min (inRole.captures + 1) 65535 = inRole.limit ∧
    (later (fromLine (inChannel .running { inRole with limit := 0 }) 7 .stamp)).channels[3] =
      some (fromLine (inChannel .running { inRole with limit := 0 }) 7 .stamp) := by decide

theorem witness_QualificationCounts :
    (at3 (inChannel .running { inRole with window := 1, timeoutWindow := 2, timeoutLeft := some 2 })).channels[3] =
      some (inChannel .running { inRole with window := 1, timeoutWindow := 2, timeoutLeft := some 2 }) ∧
    InputRole.Sampled { inRole with window := 1, timeoutWindow := 2, timeoutLeft := some 2 } .low .high 0
      { inRole with window := 1, timeoutWindow := 2, timeoutLeft := some 2, qual := some ⟨.high, 0, 0⟩ } :=
  ⟨by decide, .starts rfl (by decide) (by decide)⟩

theorem witness_MatchingEdgeIsCaptured :
    (at3 (inChannel .running inRole)).channels[3] = some (inChannel .running inRole) ∧
    inRole.Accepts .low .high 0 .high 0 ∧ inRole.Matches .high ∧ min (inRole.captures + 1) 65535 = inRole.limit ∧
    InputRole.Accepts { inRole with window := 1, qual := some ⟨.high, 5, 0⟩ } .low .high 6 .high 5 :=
  ⟨by decide, .atOnce rfl (by decide) rfl, .inr (.inl ⟨rfl, rfl⟩), by decide, .qualified ⟨.high, 5, 0⟩ rfl rfl (by decide)⟩

theorem witness_TimeoutWindowExpires :
    (at3 (inChannel .running { inRole with timeoutWindow := 1, timeoutLeft := some 1 })).channels[3] =
      some (inChannel .running { inRole with timeoutWindow := 1, timeoutLeft := some 1 }) ∧
    InputRole.Sampled { inRole with timeoutWindow := 1, timeoutLeft := some 1 } .low .low 0
      { inRole with timeoutWindow := 1, timeoutLeft := some 1 } ∧
    InputRole.Sampled { inRole with edgeSelect := .fall, timeoutWindow := 1, timeoutLeft := some 1, timeoutAction := .halt } .low
      .high 0
      { inRole with edgeSelect := .fall, timeoutWindow := 1, timeoutLeft := some 1, timeoutAction := .halt,
                    accepted := some .high, qual := none } :=
  ⟨by decide, .steady rfl rfl, .notMatching .high 0 (.atOnce rfl (by decide) rfl) (by unfold InputRole.Matches; decide)⟩

set_option maxRecDepth 20000 in
theorem witness_FrameBytesBringTheRequest :
    State.reset.inColdReset = false ∧ State.reset.link.receiver = .hunting ∧
    (Request.mk 0x7F 0xB4 (List.replicate 248 0xB4)).body.length ≤ 248 ∧
    (Request.mk 0x7F 0xB4 (List.replicate 248 0xB4)).kind.toNat < 0x80 := by decide

/-- R60: the reports of another tick come between two of one tick. -/
theorem test_reports_interleave : interleave [0, 1, 0] [[10, 11], [20]] = [10, 20, 11] := by decide

/-- One base tick with every input high but HOLD_N. -/
def heldTick : Config.TickInputs :=
  { power := true, resetN := .high, holdN := .low, lrx := .high, pins := Vector.replicate 20 .low, order := [], reportOrder := [],
    gapFirst := true }

/-- R159: when a break ends, the picked order executor, transmitter, receiver is not taken. -/
theorem test_break_order :
    transmitterBetween (arrange [0, 1, 0] tickUnits) = true ∧
    transmitterBetween ((({ State.reset with link := { State.reset.link with lowRun := 5000 } } : State).unitOrder
      { heldTick with order := [0, 1, 0] })) = false := by decide

/-- What one tick meets, from a script of it alone. -/
theorem meets (s : State) (i : Config.TickInputs) : ({ s with script := [i] } : State).Meets i { s with script := [] } :=
  .inl ⟨[], rfl, rfl⟩

theorem witness_BaseTickCounts :
    ({ State.reset with script := [heldTick] } : State).pending = [] ∧
    ({ State.reset with script := [heldTick], hold := ⟨.deasserted, 99, false⟩ } : State).script.head? = some heldTick ∧
    heldTick.power = true ∧ heldTick.resetN = .high ∧ heldTick.holdN = .low ∧ State.reset.hold.pinHold = .deasserted ∧
    State.reset.inColdReset = false ∧
    ({ State.reset with script := [heldTick] } : State).Meets heldTick { State.reset with script := [] } ∧
    ({ State.reset with resetRun := 99, script := [{ heldTick with resetN := .low }] } : State).Meets
      { heldTick with resetN := .low } { State.reset with resetRun := 99, script := [] } ∧
    (State.reset.Meets (Config.freeInputs 0) { State.reset with unscripted := 1 }) ∧
    ({ State.reset with link := { State.reset.link with requests := [⟨0x02, 0, []⟩] } } : State).link.requests =
      [⟨0x02, 0, []⟩] ∧
    (at3 (outChannel .running outRole)).channels[3] = some (outChannel .running outRole) ∧
    (at3 (outChannel .running outRole)).timebases[0].tick = .noTick ∧
    (∃ k, 74 + 1 = 75 + 50 * k) ∧ (∀ k, 75 + 1 ≠ 75 + 50 * k) ∧ 475 ≤ 474 + 1 ∧
    (List.range 8).map (0xB4 : Byte).getLsbD = [false, false, true, false, true, true, false, true] ∧
    Interleaved [[LinkStep.append (.gap 1), .append (.gap 2)], [.transmit]] [.append (.gap 1), .transmit, .append (.gap 2)] ∧
    transmitterBetween (arrange [0, 1, 0] tickUnits) = true ∧
    ({ State.reset with link := { State.reset.link with lowRun := 5000 } } : State).breakEnds .high = true :=
  ⟨by decide, by decide, by decide, by decide, by decide, by decide, by decide, meets _ _, meets { State.reset with resetRun := 99 } _,
    .inr ⟨rfl, rfl, rfl⟩, by decide, by decide, by decide, ⟨0, by omega⟩, fun k => by omega, by decide, by decide,
    .take _ 0 _ _ _ rfl (.take _ 1 _ _ _ rfl (.take _ 0 _ _ _ rfl (.done _ (by simp)))), by decide, by decide⟩

theorem witness_FrozenWiringStays :
    (at3 { outChannel .idle outRole with frozen := true }).channels[3] = some { outChannel .idle outRole with frozen := true } ∧
    exec .framingError (at3 { outChannel .idle outRole with frozen := true }) =
      .next (at3 { outChannel .idle outRole with frozen := true }).framingError := ⟨by decide, rfl⟩

/-- A command waiting right after the reset. -/
def commanded : State := { State.reset with pending := [.framingError] }

theorem witness_steps : step commanded = .next ({ commanded with pending := [] } : State).framingError := rfl

theorem witness_PatternsAndPlayStaySound : commanded.store.Accounted ∧ commanded.PlaySound := by
  refine ⟨by unfold PatternStore.Accounted; decide, ⟨fun p => ?_, fun p => ?_, fun ch c h => ?_⟩⟩
  · simp [commanded, State.reset, State.cold, PatternStore.empty]
  · simp [commanded, State.reset, State.cold, PatternStore.empty, channelRefs]
  · simp [commanded, State.reset, State.cold] at h

theorem witness_PinsTimebasesAndHoldStaySound :
    commanded.PinsSound ∧ commanded.TimebasesSound ∧ commanded.HeldOut := by
  refine ⟨fun p ch => ?_, by unfold State.TimebasesSound; decide, fun _ ch c h => ?_⟩
  · simp [commanded, State.reset, State.cold]
  · simp [commanded, State.reset, State.cold] at h

theorem witness_FabricAndRecordsStaySound : commanded.FabricSound ∧ commanded.CommonSound := by
  refine ⟨⟨fun l e h => ?_, fun l ch a h => ?_, by decide⟩, fun ch c h => ?_⟩
  · simp [commanded, State.reset, State.cold, Fabric.empty] at h
  · simp [commanded, State.reset, State.cold, Fabric.empty] at h
  · simp [commanded, State.reset, State.cold] at h

theorem witness_CaptureProgressStaysSound : commanded.CaptureSound := fun ch c h => by
  simp [commanded, State.reset, State.cold] at h

theorem witness_LinkStaysSound : commanded.link.Bounded ∧ commanded.link.TagsDistinct ∧ commanded.link.Consecutive := by
  refine ⟨?_, ?_, ?_⟩
  · simp [Link.Bounded, Receiver.Sound, commanded, State.reset, State.cold, Link.cold, Config.requestSlots, Config.replySlots, Config.replaySlots, Config.reportSlots]
  · unfold Link.TagsDistinct; decide
  · unfold Link.Consecutive; decide

end Sys2Proof.Tests
end

section
/-! SUPPORT. What a request command that the executor takes does, and the pattern store's requests one clause at a time. -/

namespace Sys2Proof.Machine

/-! ### A request that the executor takes -/

/-- A command that is the request `r` to `owner`, once taken, concludes with the owner's answer. -/
theorem exec_of_takes {i : Instr} {s : State} {r : Request} {owner : List Byte → State → Answer} {a : Answer}
    (hi : exec i s = .next (s.request r owner)) (h : s.takes r = true) (ha : owner r.body (s.taken r) = a) :
    exec i s = .next ((s.taken r).conclude r a) := by
  rw [hi, State.request_of_takes h, ha]

/-- A command whose owner refuses every body of another length refuses such a request, in every state. -/
theorem State.refusesLength_of_owner {kind tag : Byte} {command : List Byte → Instr} {n : Nat}
    {owner : List Byte → State → Answer} (s : State)
    (hi : ∀ body, exec (command body) s = .next (s.request ⟨kind, tag, body⟩ owner))
    (ha : ∀ body t, body.length ≠ n → owner body t = .refuse .badLength) :
    s.RefusesLength kind tag command n :=
  fun body hl h => exec_of_takes (hi body) h (ha body _ hl)

theorem exec_definePattern (tag : Byte) (body : List Byte) (s : State) :
    exec (.definePattern tag body) s = .next (s.request ⟨0x10, tag, body⟩ definePattern) := rfl

theorem exec_deletePattern (tag : Byte) (body : List Byte) (s : State) :
    exec (.deletePattern tag body) s = .next (s.request ⟨0x11, tag, body⟩ deletePattern) := rfl

theorem exec_queryPattern (tag : Byte) (body : List Byte) (s : State) :
    exec (.queryPattern tag body) s = .next (s.request ⟨0x12, tag, body⟩ queryPattern) := rfl

/-! ### DEFINE_PATTERN -/

/-- A segment is three bytes long (R164). -/
theorem length_flatMap_segmentBytes (gs : List Segment) : (gs.flatMap segmentBytes).length = 3 * gs.length := by
  induction gs with
  | nil => rfl
  | cons g gs ih =>
    simp only [List.flatMap_cons, List.length_append, List.length_cons, ih, segmentBytes, bytes2, List.length_nil]
    omega

/-- A body of the length its count byte says, with every field valid, names the row and the pattern (R6, R7). -/
theorem patternOf_of_fields {id r1 r0 rest count : Byte} {segs : List Byte} {i : PatternId} {l : RestLevel} {gs : List Segment}
    (hlen : segs.length = 3 * (count.toNat + 1)) (hcount : count.toNat + 1 ≤ Config.maxSegments)
    (hi : idOf 32 id = some i) (hl : restOf rest = some l) (hs : segmentsOf segs = some gs) :
    patternOf (id :: r1 :: r0 :: rest :: count :: segs) =
      .ok (i, { segments := gs, repeatCount := number2 r1 r0, rest := l }) := by
  have length : (id :: r1 :: r0 :: rest :: count :: segs).length = 5 + 3 * (count.toNat + 1) := by
    simp only [List.length_cons]
    omega
  simp only [patternOf, length, ne_eq, not_true_eq_false, if_false, if_neg (Nat.not_lt.mpr hcount), hi, hl, hs]

/-- The body that carries a sound pattern passes R6 and R7, and reads back as that row and that pattern. -/
theorem patternOf_patternBody (i : PatternId) {p : Pattern} (hp : p.Sound) :
    patternOf ([idByte i] ++ bytes2 p.repeatCount ++ [restByte p.rest, byte1 (p.segments.length - 1)] ++
      p.segments.flatMap segmentBytes) = .ok (i, p) := by
  obtain ⟨hmin, hmax, hrep, hdur⟩ := hp
  have hcount : (byte1 (p.segments.length - 1)).toNat + 1 = p.segments.length := by
    simp only [byte1, BitVec.toNat_ofNat, Config.maxSegments] at *
    omega
  have fields := patternOf_of_fields (r1 := BitVec.ofNat 8 (p.repeatCount / 256)) (r0 := BitVec.ofNat 8 p.repeatCount)
    (by rw [hcount, length_flatMap_segmentBytes]) (by rwa [hcount])
    (idOf_idByte (by omega) i) (restOf_restByte p.rest) (segmentsOf_segmentBytes hdur)
  rw [number2_bytes2 hrep] at fields
  exact fields

section
variable {body : List Byte} {s : State} {i : PatternId} {p : Pattern}

/-- R9: a row in use is not defined again. -/
theorem definePattern_inUse (hb : patternOf body = .ok (i, p)) (hd : s.store.rows[i].pattern ≠ none)
    (hu : 0 < s.store.rows[i].users) : definePattern body s = .refuse .inUse := by
  simp only [definePattern, hb, if_pos (And.intro hd hu)]

/-- R8, R10: the pool has no room for the pattern, the row's own slots counted as free. -/
theorem definePattern_noSpace (hb : patternOf body = .ok (i, p))
    (hu : s.store.rows[i].pattern = none ∨ s.store.rows[i].users = 0)
    (room : s.store.free + s.store.rows[i].slots < p.segments.length) : definePattern body s = .refuse .noSpace := by
  have unused : ¬(s.store.rows[i].pattern ≠ none ∧ 0 < s.store.rows[i].users) :=
    fun ⟨hd, pos⟩ => hu.elim hd pos.ne'
  simp only [definePattern, hb, if_neg unused, if_pos room]

/-- R8, R10: the row takes the pattern. -/
theorem definePattern_defines (hb : patternOf body = .ok (i, p))
    (hu : s.store.rows[i].pattern = none ∨ s.store.rows[i].users = 0)
    (room : p.segments.length ≤ s.store.free + s.store.rows[i].slots) :
    definePattern body s = .succeed { s with store := s.store.define i p } (bytes2 (s.store.define i p).free) := by
  have unused : ¬(s.store.rows[i].pattern ≠ none ∧ 0 < s.store.rows[i].users) :=
    fun ⟨hd, pos⟩ => hu.elim hd pos.ne'
  simp only [definePattern, hb, if_neg unused, if_neg (Nat.not_lt.mpr room)]

end

/-! ### DELETE_PATTERN and QUERY_PATTERN -/

theorem deletePattern_badLength (body : List Byte) (s : State) (h : body.length ≠ 1) :
    deletePattern body s = .refuse .badLength := by
  match body, h with
  | [], _ => rfl
  | _ :: _ :: _, _ => rfl

theorem queryPattern_badLength (body : List Byte) (s : State) (h : body.length ≠ 1) :
    queryPattern body s = .refuse .badLength := by
  match body, h with
  | [], _ => rfl
  | _ :: _ :: _, _ => rfl

section
variable {id : Byte} {s : State} {i : PatternId} {q : Pattern}

theorem deletePattern_badField (h : 32 ≤ id.toNat) : deletePattern [id] s = .refuse .badField := by
  simp only [deletePattern, idOf_eq_none h]

theorem deletePattern_notFound (hi : id.toNat = i.val) (he : s.store.rows[i].pattern = none) :
    deletePattern [id] s = .refuse .notFound := by
  simp only [deletePattern, idOf_eq_some.mpr hi, if_pos he]

theorem deletePattern_inUse (hi : id.toNat = i.val) (hd : s.store.rows[i].pattern ≠ none)
    (hu : 0 < s.store.rows[i].users) : deletePattern [id] s = .refuse .inUse := by
  simp only [deletePattern, idOf_eq_some.mpr hi, if_neg hd, if_pos hu]

/-- R12: a DEFINED row without users becomes EMPTY. -/
theorem deletePattern_deletes (hi : id.toNat = i.val) (hd : s.store.rows[i].pattern ≠ none)
    (hu : s.store.rows[i].users = 0) :
    deletePattern [id] s = .succeed { s with store := s.store.delete i } (bytes2 (s.store.delete i).free) := by
  simp only [deletePattern, idOf_eq_some.mpr hi, if_neg hd, hu, Nat.lt_irrefl, if_false]

/-- The store after a DELETE_PATTERN, with the freed slots those of the row's pattern. -/
theorem PatternStore.delete_of_defined {t : PatternStore} (hd : t.rows[i].pattern = some q) :
    t.delete i = { rows := t.rows.set i { pattern := none, users := 0 }, free := t.free + q.segments.length,
                   defined := t.defined - 1 } := by
  simp only [PatternStore.delete, PatternRow.slots, hd]

theorem queryPattern_badField (h : 32 ≤ id.toNat) : queryPattern [id] s = .refuse .badField := by
  simp only [queryPattern, idOf_eq_none h]

/-- R13: an EMPTY row is told by its id and state alone. -/
theorem queryPattern_empty (hi : id.toNat = i.val) (he : s.store.rows[i].pattern = none) :
    queryPattern [id] s = .succeed s [id, 0] := by
  simp only [queryPattern, idOf_eq_some.mpr hi, he]

/-- R13: a DEFINED row is told whole. -/
theorem queryPattern_defined (hi : id.toNat = i.val) (hd : s.store.rows[i].pattern = some q) :
    queryPattern [id] s = .succeed s ([id, 1] ++ bytes2 q.repeatCount ++
      [restByte q.rest, byte1 s.store.rows[i].users, byte1 (q.segments.length - 1)] ++ q.segments.flatMap segmentBytes) := by
  simp only [queryPattern, idOf_eq_some.mpr hi, hd]

end

end Sys2Proof.Machine
end

section
/-! SUPPORT. The statements on the pattern table and the segment pool. -/

namespace Sys2Proof.Machine

/-- Settles O12: the body reads back as the pattern it carries, and the row and the pool choose the clause. -/
theorem definePatternWritesRow : Obligations.DefinePatternWritesRow := by
  intro tag i p s hp body r t x old h
  have hb : patternOf body = .ok (i, p) := patternOf_patternBody i hp
  have hold : old = s.store.rows[i].slots := rfl
  have hstore : t.store = s.store := s.taken_store r
  have answer {a : Answer} (ha : definePattern body t = a) : x = .next (t.conclude r a) :=
    exec_of_takes (exec_definePattern tag body s) h ha
  rw [hold, ← hstore]
  refine ⟨fun hd hu => ?_, fun hu => ⟨fun full => ?_, fun room => ?_⟩⟩
  · exact answer (definePattern_inUse hb hd hu)
  · exact answer (definePattern_noSpace hb hu full)
  · exact answer (definePattern_defines hb hu room)

/-- Settles O13: DELETE_PATTERN and QUERY_PATTERN clause by clause, each read off the owner's answer in the taken state. -/
theorem patternRowsAreDeletedAndTold : Obligations.PatternRowsAreDeletedAndTold := by
  refine ⟨fun tag id s => ⟨?_, ?_⟩, fun tag id s => ⟨?_, ?_⟩⟩
  · exact s.refusesLength_of_owner (exec_deletePattern tag · s) deletePattern_badLength
  · intro r t x h
    have hstore : t.store = s.store := s.taken_store r
    have answer {a : Answer} (ha : deletePattern [id] t = a) : x = .next (t.conclude r a) :=
      exec_of_takes (exec_deletePattern tag [id] s) h ha
    rw [← hstore]
    refine ⟨fun big => answer (deletePattern_badField big), fun i hi => ⟨fun he => ?_, fun q hq => ?_⟩⟩
    · exact answer (deletePattern_notFound hi he)
    · have hd : t.store.rows[i].pattern ≠ none := hq ▸ Option.some_ne_none q
      refine ⟨fun hu => answer (deletePattern_inUse hi hd hu), fun hu => ?_⟩
      rw [answer (deletePattern_deletes hi hd hu), PatternStore.delete_of_defined hq]
      rfl
  · exact s.refusesLength_of_owner (exec_queryPattern tag · s) queryPattern_badLength
  · intro r t x h
    have hstore : t.store = s.store := s.taken_store r
    have answer {a : Answer} (ha : queryPattern [id] t = a) : x = .next (t.conclude r a) :=
      exec_of_takes (exec_queryPattern tag [id] s) h ha
    rw [← hstore]
    refine ⟨fun big => answer (queryPattern_badField big), fun i hi => ⟨fun he => ?_, fun q hq => ?_⟩⟩
    · exact answer (queryPattern_empty hi he)
    · rw [answer (queryPattern_defined hi hq)]
      rfl

end Sys2Proof.Machine
end

section
/-! SUPPORT. The two configuration requests one clause at a time: CONFIGURE_OUTPUT (R65, R66) and CONFIGURE_INPUT (R110, R111). -/

namespace Sys2Proof.Machine

theorem exec_configureOutput (tag : Byte) (body : List Byte) (s : State) :
    exec (.configureOutput tag body) s = .next (s.request ⟨0x22, tag, body⟩ configureOutput) := rfl

theorem exec_configureInput (tag : Byte) (body : List Byte) (s : State) :
    exec (.configureInput tag body) s = .next (s.request ⟨0x23, tag, body⟩ configureInput) := rfl

/-! ### Bytes that name no value of a field (R163) -/

/-- A byte of `n` or more differs from every byte below `n`. -/
theorem byte_ne_of_le {b : Byte} {n : Nat} (h : n ≤ b.toNat) (v : Byte) (hv : v.toNat < n) : b ≠ v := by
  rintro rfl
  omega

theorem levelOf_eq_none {b : Byte} (h : 3 ≤ b.toNat) : levelOf b = none := by
  simp only [levelOf, if_neg (byte_ne_of_le h 0 (by decide)), if_neg (byte_ne_of_le h 1 (by decide)),
    if_neg (byte_ne_of_le h 2 (by decide))]

theorem edgeOf_eq_none {b : Byte} (h : 3 ≤ b.toNat) : edgeOf b = none := by
  simp only [edgeOf, if_neg (byte_ne_of_le h 0 (by decide)), if_neg (byte_ne_of_le h 1 (by decide)),
    if_neg (byte_ne_of_le h 2 (by decide))]

theorem timeoutActionOf_eq_none {b : Byte} (h : 2 ≤ b.toNat) : timeoutActionOf b = none := by
  simp only [timeoutActionOf, if_neg (byte_ne_of_le h 0 (by decide)), if_neg (byte_ne_of_le h 1 (by decide))]

theorem modeOf_eq_none {b : Byte} (h : 2 ≤ b.toNat) : modeOf b = none := by
  simp only [modeOf, if_neg (byte_ne_of_le h 0 (by decide)), if_neg (byte_ne_of_le h 1 (by decide))]

/-! ### The level of an output pin outside RUNNING (R62, R63) -/

/-- The level shown reads the pattern store alone, so a new channel record does not change it. -/
@[simp] theorem State.outputLevel_setChannel (s : State) (ch : ChannelId) (d : Option Channel) (c : Channel) (o : OutputRole) :
    (s.setChannel ch d).outputLevel c o = s.outputLevel c o := rfl

theorem State.outputLevel_of_atRest {s : State} {c : Channel} {o : OutputRole} (hp : c.inPlay = false) (hd : c.activity ≠ .done) :
    s.outputLevel c o = o.idleLevel := by
  unfold State.outputLevel
  split
  case h_1 running => simp [Channel.inPlay, running] at hp
  case h_2 done => exact absurd done hd
  all_goals rfl

theorem State.outputLevel_of_done {s : State} {c : Channel} {o : OutputRole} {e : Level} (hd : c.activity = .done)
    (he : o.doneLevel = some e) : s.outputLevel c o = e := by
  simp only [State.outputLevel, hd, he, Option.getD_some]

/-! ### CONFIGURE_OUTPUT -/

theorem configureOutput_badLength (body : List Byte) (s : State) (h : body.length ≠ 2) :
    configureOutput body s = .refuse .badLength := by
  unfold configureOutput
  split
  · exact absurd rfl h
  · rfl

section
variable {chb lb : Byte} {s : State} {ch : ChannelId} {l : Level} {c : Channel} {o : OutputRole} {i : InputRole}

theorem configureOutput_badField (h : idOf 16 chb = none ∨ levelOf lb = none) :
    configureOutput [chb, lb] s = .refuse .badField := by
  simp only [configureOutput]
  split
  case h_1 hch hl => simp only [hch, hl, reduceCtorEq, or_self] at h
  case h_2 => rfl

theorem configureOutput_free (hch : idOf 16 chb = some ch) (hl : levelOf lb = some l) (hc : s.channels[ch] = none) :
    configureOutput [chb, lb] s = .refuse .badState := by
  simp only [configureOutput, hch, hl, hc]

theorem configureOutput_badRole (hch : idOf 16 chb = some ch) (hl : levelOf lb = some l) (hc : s.channels[ch] = some c)
    (hr : c.role = .input i) : configureOutput [chb, lb] s = .refuse .badRole := by
  simp only [configureOutput, hch, hl, hc, hr]

theorem configureOutput_frozen (hch : idOf 16 chb = some ch) (hl : levelOf lb = some l) (hc : s.channels[ch] = some c)
    (hr : c.role = .output o) (hf : c.frozen = true) : configureOutput [chb, lb] s = .refuse .frozen := by
  simp only [configureOutput, hch, hl, hc, hr, hf, if_true]

theorem configureOutput_inPlay (hch : idOf 16 chb = some ch) (hl : levelOf lb = some l) (hc : s.channels[ch] = some c)
    (hr : c.role = .output o) (hf : c.frozen = false) (hp : c.inPlay = true) :
    configureOutput [chb, lb] s = .refuse .badState := by
  simp only [configureOutput, hch, hl, hc, hr, hf, hp, Bool.false_eq_true, if_false, if_true]

/-- R66: the idle level alone is replaced, and told with the level the pin then shows. -/
theorem configureOutput_sets (hch : idOf 16 chb = some ch) (hl : levelOf lb = some l) (hc : s.channels[ch] = some c)
    (hr : c.role = .output o) (hf : c.frozen = false) (hp : c.inPlay = false) :
    configureOutput [chb, lb] s =
      .succeed (s.setChannel ch (some { c with role := .output { o with idleLevel := l } }))
        [lb, levelByte (s.outputLevel c { o with idleLevel := l })] := by
  simp only [configureOutput, hch, hl, hc, hr, hf, hp, Bool.false_eq_true, if_false, State.outputLevel_setChannel]

end

/-! ### CONFIGURE_INPUT -/

theorem configureInput_badLength (body : List Byte) (s : State) (h : body.length ≠ 10) :
    configureInput body s = .refuse .badLength := by
  unfold configureInput
  split
  · exact absurd rfl h
  · rfl

/-- The configuration fields of a reply are the bytes that the request carried them in. -/
theorem inputConfigBytes_of_fields (i : InputRole) (e : EdgeSelect) (a : TimeoutAction) (m : CaptureMode)
    (q1 q0 w1 w0 l1 l0 : Byte) :
    inputConfigBytes { i with edgeSelect := e, window := number2 q1 q0, timeoutWindow := number2 w1 w0,
                              timeoutAction := a, mode := m, limit := number2 l1 l0 } =
      [edgeByte e, q1, q0, w1, w0, timeoutActionByte a, modeByte m, l1, l0] := by
  simp only [inputConfigBytes, bytes2_number2, List.cons_append, List.nil_append]

section
variable {chb eb q1 q0 w1 w0 ab mb l1 l0 : Byte} {s : State} {ch : ChannelId} {e : EdgeSelect} {a : TimeoutAction}
  {m : CaptureMode} {c : Channel} {o : OutputRole} {i : InputRole}

theorem configureInput_badField
    (h : idOf 16 chb = none ∨ edgeOf eb = none ∨ timeoutActionOf ab = none ∨ modeOf mb = none) :
    configureInput [chb, eb, q1, q0, w1, w0, ab, mb, l1, l0] s = .refuse .badField := by
  simp only [configureInput]
  split
  case h_1 hch he ha hm => simp only [hch, he, ha, hm, reduceCtorEq, or_self] at h
  case h_2 => rfl

theorem configureInput_free (hch : idOf 16 chb = some ch) (he : edgeOf eb = some e) (ha : timeoutActionOf ab = some a)
    (hm : modeOf mb = some m) (hc : s.channels[ch] = none) :
    configureInput [chb, eb, q1, q0, w1, w0, ab, mb, l1, l0] s = .refuse .badState := by
  simp only [configureInput, hch, he, ha, hm, hc]

theorem configureInput_badRole (hch : idOf 16 chb = some ch) (he : edgeOf eb = some e) (ha : timeoutActionOf ab = some a)
    (hm : modeOf mb = some m) (hc : s.channels[ch] = some c) (hr : c.role = .output o) :
    configureInput [chb, eb, q1, q0, w1, w0, ab, mb, l1, l0] s = .refuse .badRole := by
  simp only [configureInput, hch, he, ha, hm, hc, hr]

theorem configureInput_frozen (hch : idOf 16 chb = some ch) (he : edgeOf eb = some e) (ha : timeoutActionOf ab = some a)
    (hm : modeOf mb = some m) (hc : s.channels[ch] = some c) (hr : c.role = .input i) (hf : c.frozen = true) :
    configureInput [chb, eb, q1, q0, w1, w0, ab, mb, l1, l0] s = .refuse .frozen := by
  simp only [configureInput, hch, he, ha, hm, hc, hr, hf, if_true]

theorem configureInput_inPlay (hch : idOf 16 chb = some ch) (he : edgeOf eb = some e) (ha : timeoutActionOf ab = some a)
    (hm : modeOf mb = some m) (hc : s.channels[ch] = some c) (hr : c.role = .input i) (hf : c.frozen = false)
    (hp : c.inPlay = true) :
    configureInput [chb, eb, q1, q0, w1, w0, ab, mb, l1, l0] s = .refuse .badState := by
  simp only [configureInput, hch, he, ha, hm, hc, hr, hf, hp, Bool.false_eq_true, if_false, if_true]

/-- R111: the six configuration fields alone are replaced, and told. -/
theorem configureInput_sets (hch : idOf 16 chb = some ch) (he : edgeOf eb = some e) (ha : timeoutActionOf ab = some a)
    (hm : modeOf mb = some m) (hc : s.channels[ch] = some c) (hr : c.role = .input i) (hf : c.frozen = false)
    (hp : c.inPlay = false) :
    configureInput [chb, eb, q1, q0, w1, w0, ab, mb, l1, l0] s =
      .succeed (s.setChannel ch (some { c with role := .input { i with
          edgeSelect := e, window := number2 q1 q0, timeoutWindow := number2 w1 w0, timeoutAction := a, mode := m,
          limit := number2 l1 l0 } }))
        [edgeByte e, q1, q0, w1, w0, timeoutActionByte a, modeByte m, l1, l0] := by
  simp only [configureInput, hch, he, ha, hm, hc, hr, hf, hp, Bool.false_eq_true, if_false, inputConfigBytes_of_fields]

end

end Sys2Proof.Machine
end

section
/-! SUPPORT. The tick at which a segment of a running output channel ends, and what the tick leaves when the pattern goes on with its
next segment (R48, R54 to R56). -/

namespace Sys2Proof.Machine

section
variable {s : State} {ch : ChannelId} {c : Channel} {o : OutputRole} {y : Sample} {p : Pattern} {g : Segment}

/-! ### A tick with nothing due -/

theorem State.deliveryStage_of_nothingDue (hc : s.channels[ch] = some c) (hd : c.NothingDue s.time) :
    s.deliveryStage ch = ⟨s, false⟩ :=
  Staging.foldl_of_not_due (w := ⟨s, false⟩) hc lines fun k _ => hd.due_eq_none k

/-- With no delivery due the tick is the channel's own work (R48). -/
theorem State.tickChannel_of_nothingDue (hc : s.channels[ch] = some c) (hd : c.NothingDue s.time) :
    s.tickChannel ch y = s.ownWork ch y false := by
  rw [State.tickChannel, State.deliveryStage_of_nothingDue hc hd]

/-- R54: the own work of an output channel in RUNNING counts its segment, unless the segment began in this tick. -/
theorem State.ownWork_of_running_output (hc : s.channels[ch] = some c) (ha : c.activity = .running) (hr : c.role = .output o) :
    s.ownWork ch y false = s.countSegment ch := by
  have output : c.isOutput = true := by rw [Channel.isOutput, hr]
  simp only [State.ownWork, hc, ha, output, if_true, Bool.false_eq_true, if_false]

/-! ### The segment end -/

/-- R54: the count of the last tick left ends the segment. -/
theorem State.countSegment_of_lastTick (hc : s.channels[ch] = some c) (hr : c.role = .output o) (hl : o.ticksLeft = some 1) :
    s.countSegment ch = s.endSegment ch := by
  simp only [State.countSegment, State.outputChannel_eq_some.mpr ⟨hc, hr⟩, hl, le_refl, if_true]

theorem State.ticksSegmentEnd_of_lastTick (hc : s.channels[ch] = some c) (hd : c.NothingDue s.time) (ha : c.activity = .running)
    (hr : c.role = .output o) (hl : o.ticksLeft = some 1) : s.ticksSegmentEnd ch = true := by
  simp only [State.ticksSegmentEnd, State.deliveryStage_of_nothingDue hc hd, State.outputChannel_eq_some.mpr ⟨hc, hr⟩, ha, hl,
    decide_true, Bool.not_false, Bool.and_self, le_refl]

theorem exec_segmentEnd (ch : ChannelId) (y : Sample) (s : State) :
    exec (.segmentEnd ch y) s = .next (s.tickWhen ch y (s.ticksSegmentEnd ch)) := rfl

/-- SEGMENT_END at the last tick of a segment, with no delivery due, ends the segment. -/
theorem exec_segmentEnd_of_lastTick (hz : s.inColdReset = false) (hc : s.channels[ch] = some c) (hd : c.NothingDue s.time)
    (ha : c.activity = .running) (hr : c.role = .output o) (hl : o.ticksLeft = some 1) :
    exec (.segmentEnd ch y) s = .next (s.endSegment ch) := by
  rw [exec_segmentEnd, State.tickWhen, if_pos ⟨hz, State.ticksSegmentEnd_of_lastTick hc hd ha hr hl⟩,
    State.tickChannel_of_nothingDue hc hd, State.ownWork_of_running_output hc ha hr, State.countSegment_of_lastTick hc hr hl]

/-- R55: a segment end raises MARK when the ended segment is marked, and goes on in the state that leaves. -/
theorem State.endSegment_of_segment (hc : s.channels[ch] = some c) (hr : c.role = .output o) (hp : s.activePattern o = some p)
    (hg : p.segments[o.segIndex]? = some g) :
    s.endSegment ch = (if g.mark then s.raise ch .mark else s).afterMark ch o p := by
  simp only [State.endSegment, State.outputChannel_eq_some.mpr ⟨hc, hr⟩, hp, hg]

/-- R56: with no swap at this segment end, the segment that follows begins. -/
theorem State.afterMark_of_next (hw : o.stagedAt .segment = false) (hg : p.segments[o.segIndex + 1]? = some g) :
    s.afterMark ch o p = s.beginSegment ch p (o.segIndex + 1) o.reps := by
  have more : ¬p.segments.length ≤ o.segIndex + 1 := not_le.mpr (List.getElem?_eq_some_iff.mp hg).1
  simp only [State.afterMark, hw, Bool.false_eq_true, if_false, if_neg more]

/-- A segment that exists begins: its index, its duration and the repetitions completed are written to the record. -/
theorem State.beginSegment_of_some {i reps : Nat} (hc : s.channels[ch] = some c) (hr : c.role = .output o)
    (hg : p.segments[i]? = some g) :
    s.beginSegment ch p i reps =
      s.setChannel ch (some { c with role := .output { o with segIndex := i, ticksLeft := some g.duration, reps := reps } }) := by
  rw [State.beginSegment, State.updateChannel_eq_of_some hc]
  simp only [Channel.updateOutput, hr, OutputRole.begin_of_some o hg]

/-- No pattern is staged at a swap point where any staged pattern waits for another. -/
theorem OutputRole.stagedAt_eq_false {w v : SwapPoint} (h : ∀ g, o.staged = some g → g.point = v) (hv : v ≠ w) :
    o.stagedAt w = false := by
  unfold OutputRole.stagedAt
  split
  case h_1 => rfl
  case h_2 g e => rw [h g e, decide_eq_false hv]

/-- What an event that may be raised leaves: the channel's record but for deliveries, the pattern store and the pin table. -/
theorem State.raise_if_keeps (b : Bool) (k : EventKind) {x : ChannelId} (h : s.channels[x] = some c) :
    ∃ ds, (if b then s.raise ch k else s).channels[x] = some { c with deliveries := ds } ∧
      (if b then s.raise ch k else s).store = s.store ∧ (if b then s.raise ch k else s).pinTable = s.pinTable := by
  cases b
  case false => exact ⟨c.deliveries, h, rfl, rfl⟩
  case true =>
    obtain ⟨ds, raised⟩ := State.raise_some ch k h
    exact ⟨ds, raised, s.raise_store ch k, s.raise_pinTable ch k⟩

/-! ### The level of a pin -/

/-- R33: a pin bound to an output channel shows the channel's level. -/
theorem State.pinLevel_of_output {pin : PinId} (hb : s.pinTable[pin] = some ch) (hc : s.channels[ch] = some c)
    (hr : c.role = .output o) : s.pinLevel pin = s.outputLevel c o := by
  simp only [State.pinLevel, hb, hc, hr]

/-- R62: an output channel in RUNNING shows the level of its segment. -/
theorem State.outputLevel_of_running (ha : c.activity = .running) (hp : s.activePattern o = some p)
    (hg : p.segments[o.segIndex]? = some g) : s.outputLevel c o = g.level := by
  simp only [State.outputLevel, ha, hp, hg]

theorem State.activePattern_of_defined {i : PatternId} (ho : o.active = some i) (hp : s.store.rows[i].pattern = some p) :
    s.activePattern o = some p := by
  simp only [State.activePattern, ho, hp]

end

end Sys2Proof.Machine
end

section
/-! SUPPORT. The statements on playing patterns on output channels. -/

namespace Sys2Proof.Machine

/-- Settles O19: each request clause by clause, read off the owner's answer in the taken state, whose channels are those of `s`. -/
theorem configurationIsSet : Obligations.ConfigurationIsSet := by
  refine ⟨fun tag chb lb s => ⟨?_, ?_⟩, fun tag chb eb q1 q0 w1 w0 ab mb l1 l0 s => ⟨?_, ?_⟩⟩
  · exact s.refusesLength_of_owner (exec_configureOutput tag · s) configureOutput_badLength
  · intro r t x h
    have answer {a : Answer} (ha : configureOutput [chb, lb] t = a) : x = .next (t.conclude r a) :=
      exec_of_takes (exec_configureOutput tag [chb, lb] s) h ha
    rw [← s.taken_channels r]
    refine ⟨fun bad => ?_, fun ch l hchb hlb => ?_⟩
    · exact answer (configureOutput_badField (bad.imp idOf_eq_none levelOf_eq_none))
    have hch := idOf_eq_some.mpr hchb
    have hl : levelOf lb = some l := hlb ▸ levelOf_levelByte l
    refine ⟨fun free => ?_, fun c hc => ⟨fun i hr => ?_, fun o hr => ⟨fun hf => ?_, fun hf hp => ?_, fun hf hp => ?_⟩⟩⟩
    · exact answer (configureOutput_free hch hl free)
    · exact answer (configureOutput_badRole hch hl hc hr)
    · exact answer (configureOutput_frozen hch hl hc hr hf)
    · exact answer (configureOutput_inPlay hch hl hc hr hf hp)
    have told := answer (configureOutput_sets hch hl hc hr hf hp)
    refine ⟨fun rest => ?_, fun e done level => ?_⟩
    · rw [State.outputLevel_of_atRest hp rest, ← hlb] at told
      exact told
    · rw [State.outputLevel_of_done (o := { o with idleLevel := l }) done level] at told
      exact told
  · exact s.refusesLength_of_owner (exec_configureInput tag · s) configureInput_badLength
  · intro body r t x h
    have answer {a : Answer} (ha : configureInput body t = a) : x = .next (t.conclude r a) :=
      exec_of_takes (exec_configureInput tag body s) h ha
    rw [← s.taken_channels r]
    refine ⟨fun bad => ?_, fun ch e a m hchb heb hab hmb => ?_⟩
    · exact answer (configureInput_badField
        (bad.imp idOf_eq_none (.imp edgeOf_eq_none (.imp timeoutActionOf_eq_none modeOf_eq_none))))
    have hch := idOf_eq_some.mpr hchb
    have he : edgeOf eb = some e := heb ▸ edgeOf_edgeByte e
    have ha : timeoutActionOf ab = some a := hab ▸ timeoutActionOf_timeoutActionByte a
    have hm : modeOf mb = some m := hmb ▸ modeOf_modeByte m
    refine ⟨fun free => ?_, fun c hc => ⟨fun o hr => ?_, fun i hr => ⟨fun hf => ?_, fun hf hp => ?_, fun hf hp => ?_⟩⟩⟩
    · exact answer (configureInput_free hch he ha hm free)
    · exact answer (configureInput_badRole hch he ha hm hc hr)
    · exact answer (configureInput_frozen hch he ha hm hc hr hf)
    · exact answer (configureInput_inPlay hch he ha hm hc hr hf hp)
    · have told := answer (configureInput_sets hch he ha hm hc hr hf hp)
      rw [← heb, ← hab, ← hmb] at told
      exact told

/-- Settles O40: with no delivery due the tick counts the segment, whose last tick ends it; MARK leaves the record but for deliveries,
and the next segment begins in what it leaves. -/
theorem segmentEndBeginsNext : Obligations.SegmentEndBeginsNext := by
  intro ch y s c o p q g h cold hc due running hr last active defined hg hh swapsAtCycle v
  obtain ⟨e, hv, hstore, hpins⟩ := State.raise_if_keeps (ch := ch) g.mark .mark hc
  have hq : s.activePattern o = some q := State.activePattern_of_defined active defined
  have notStaged : o.stagedAt .segment = false := OutputRole.stagedAt_eq_false swapsAtCycle (by decide)
  refine ⟨e, hv, ?_, fun pin bound => ?_⟩
  · rw [exec_segmentEnd_of_lastTick cold hc due running hr last, State.endSegment_of_segment hc hr hq hg,
      State.afterMark_of_next notStaged hh, State.beginSegment_of_some hv hr hh]
    rfl
  · rw [State.pinLevel_of_output (hpins ▸ bound) (getElem_set_self_fin ..) rfl]
    refine State.outputLevel_of_running running (State.activePattern_of_defined active ?_) hh
    rw [← defined, ← hstore]

end Sys2Proof.Machine
end

section
/-! SUPPORT. ASSIGN one clause at a time (R75 to R78). -/

namespace Sys2Proof.Machine

theorem exec_assign (tag : Byte) (body : List Byte) (s : State) :
    exec (.assign tag body) s = .next (s.request ⟨0x28, tag, body⟩ assign) := rfl

theorem swapPointOf_eq_none {b : Byte} (h : 2 ≤ b.toNat) : swapPointOf b = none := by
  simp only [swapPointOf, if_neg (byte_ne_of_le h 0 (by decide)), if_neg (byte_ne_of_le h 1 (by decide))]

/-- The byte that carries an identifier is the identifier's byte. -/
theorem idByte_eq_of_toNat {n : Nat} (h : n ≤ 256) {b : Byte} {i : Fin n} (hb : b.toNat = i.val) : idByte i = b :=
  BitVec.eq_of_toNat_eq ((idByte_toNat h i).trans hb.symm)

/-- R15: a reference is taken before others are released, and each row changes by the net. -/
theorem PatternStore.Recounted.of_retain {t u : PatternStore} {p : PatternId} {given : PatternId → Nat}
    (h : (t.retain p).Recounted u (fun _ => 0) given) : t.Recounted u (fieldRefs (some p)) given := by
  simpa only [Nat.zero_add] using (t.retain_recounted p).trans h

theorem assign_badLength (body : List Byte) (s : State) (h : body.length ≠ 3) : assign body s = .refuse .badLength := by
  unfold assign
  split
  · exact absurd rfl h
  · rfl

section
variable {chb pb wb : Byte} {s : State} {ch : ChannelId} {p : PatternId} {w : SwapPoint} {c : Channel} {o : OutputRole}
  {i : InputRole}

theorem assign_badField (h : idOf 16 chb = none ∨ idOf 32 pb = none ∨ swapPointOf wb = none) :
    assign [chb, pb, wb] s = .refuse .badField := by
  simp only [assign]
  split
  case h_1 hch hp hw => simp only [hch, hp, hw, reduceCtorEq, or_self] at h
  case h_2 => rfl

theorem assign_free (hch : idOf 16 chb = some ch) (hp : idOf 32 pb = some p) (hw : swapPointOf wb = some w)
    (hc : s.channels[ch] = none) : assign [chb, pb, wb] s = .refuse .badState := by
  simp only [assign, hch, hp, hw, hc]

theorem assign_badRole (hch : idOf 16 chb = some ch) (hp : idOf 32 pb = some p) (hw : swapPointOf wb = some w)
    (hc : s.channels[ch] = some c) (hr : c.role = .input i) : assign [chb, pb, wb] s = .refuse .badRole := by
  simp only [assign, hch, hp, hw, hc, hr]

theorem assign_notFound (hch : idOf 16 chb = some ch) (hp : idOf 32 pb = some p) (hw : swapPointOf wb = some w)
    (hc : s.channels[ch] = some c) (hr : c.role = .output o) (he : s.store.rows[p].pattern = none) :
    assign [chb, pb, wb] s = .refuse .notFound := by
  simp only [assign, hch, hp, hw, hc, hr, if_pos he]

/-- An ASSIGN that passes every check of R75 goes on with the pattern. -/
theorem assign_of_defined (hch : idOf 16 chb = some ch) (hp : idOf 32 pb = some p) (hw : swapPointOf wb = some w)
    (hc : s.channels[ch] = some c) (hr : c.role = .output o) (hd : s.store.rows[p].pattern ≠ none) :
    assign [chb, pb, wb] s = s.assignTo ch c o p w := by
  simp only [assign, hch, hp, hw, hc, hr, if_neg hd]

/-- R76: outside RUNNING the pattern becomes active, and the channel's old references are released. -/
theorem State.assignTo_activates (ha : c.activity ≠ .running) :
    s.assignTo ch c o p w =
      .succeed ({ s with store := (s.store.retain p).releaseRole (.output o) }.setChannel ch
          (some { c with role := .output { o with active := some p, staged := none } }))
        [0, idByte p, 0xFF] := by
  rw [State.assignTo, if_neg ha]
  rfl

/-- R77: in RUNNING the pattern becomes staged, and the reference of one staged before is released. -/
theorem State.assignTo_stages (ha : c.activity = .running) :
    s.assignTo ch c o p w =
      .succeed ({ s with store := (s.store.retain p).releaseField (o.staged.map Staged.pattern) }.setChannel ch
          (some { c with role := .output { o with staged := some { pattern := p, point := w } } }))
        [if o.staged = none then 1 else 2, orNone idByte o.active, idByte p] := by
  rw [State.assignTo, if_pos ha]
  rfl

end

end Sys2Proof.Machine
end

section
/-! SUPPORT. The statement on staging and swapping patterns. -/

namespace Sys2Proof.Machine

/-- Settles O20: each check of R75 in turn, read off the owner's answer in the taken state; then the activity chooses between R76 and
R77, each of which takes the new reference before it releases the old ones. -/
theorem assignActivatesOrStages : Obligations.AssignActivatesOrStages := by
  refine fun tag chb pb wb s => ⟨?_, ?_⟩
  · exact s.refusesLength_of_owner (exec_assign tag · s) assign_badLength
  intro r t x h
  have answer {a : Answer} (ha : assign [chb, pb, wb] t = a) : x = .next (t.conclude r a) :=
    exec_of_takes (exec_assign tag [chb, pb, wb] s) h ha
  rw [← s.taken_channels r, ← s.taken_store r]
  refine ⟨fun bad => ?_, fun ch p w hchb hpb hwb => ?_⟩
  · exact answer (assign_badField (bad.imp idOf_eq_none (.imp idOf_eq_none swapPointOf_eq_none)))
  have hch := idOf_eq_some.mpr hchb
  have hp := idOf_eq_some.mpr hpb
  have hw : swapPointOf wb = some w := hwb ▸ swapPointOf_swapPointByte w
  have hid : idByte p = pb := idByte_eq_of_toNat (by decide) hpb
  refine ⟨fun free => ?_, fun c hc => ⟨fun i hr => ?_, fun o hr => ⟨fun he => ?_, fun hd => ?_⟩⟩⟩
  · exact answer (assign_free hch hp hw free)
  · exact answer (assign_badRole hch hp hw hc hr)
  · exact answer (assign_notFound hch hp hw hc hr he)
  have passed := assign_of_defined hch hp hw hc hr hd
  refine ⟨fun atRest => ⟨_, .of_retain (PatternStore.releaseRole_recounted _ c.role), ?_⟩,
    fun running => ⟨_, .of_retain (PatternStore.releaseField_recounted _ (o.staged.map Staged.pattern)), ?_⟩⟩
  · have told := answer (passed.trans (State.assignTo_activates atRest))
    rw [hid, ← hr] at told
    exact told
  · have told := answer (passed.trans (State.assignTo_stages running))
    rw [hid] at told
    refine told.trans ?_
    cases o.active <;> rfl

end Sys2Proof.Machine
end

section
/-! SUPPORT. What an event leaves (R114, R123 to R125): line by line, then all lines at once. -/

namespace Sys2Proof.Machine

/-! ### One line -/

/-- R114: the line's emitter names the channel as source and the kind. -/
def Fabric.carries (f : Fabric) (ch : ChannelId) (k : EventKind) (l : LineId) : Bool :=
  (f.emitters[l]).any fun e => decide (e.source = ch ∧ e.kind = k)

/-- R114: the line carries the event and its report flag is set. -/
def Fabric.tells (f : Fabric) (ch : ChannelId) (k : EventKind) (l : LineId) : Bool :=
  (f.emitters[l]).any fun e => decide (e.source = ch ∧ e.kind = k) && e.report

/-- R124, R125: what target `d` holds from line `l` after the event at `now`, where it held `held` before. -/
def Fabric.holdsAfter (f : Fabric) (ch : ChannelId) (k : EventKind) (now : Time) (d : ChannelId) (l : LineId)
    (held : Option Delivery) : Option Delivery :=
  match f.listeners[l][d], held with
  | none, x => x
  | some a, none => if f.carries ch k l then some { action := a, firstTime := now, count := 1 } else none
  | some _, some x => some (if f.carries ch k l then { x with count := min (x.count + 1) 255 } else x)

section
variable {f : Fabric} {s : State} {ch : ChannelId} {k : EventKind} {l : LineId}

theorem Fabric.holdsAfter_of_not_carries (h : f.carries ch k l = false) (now : Time) (d : ChannelId) (held : Option Delivery) :
    f.holdsAfter ch k now d l held = held := by
  unfold Fabric.holdsAfter
  split
  next => rfl
  next => rw [h]; rfl
  next => rw [h]; rfl

theorem Fabric.holdsAfter_of_no_listener {d : ChannelId} (h : f.listeners[l][d] = none) (now : Time) (held : Option Delivery) :
    f.holdsAfter ch k now d l held = held := by
  simp only [Fabric.holdsAfter, h]

/-- A placement at a listener's target leaves what the target holds after the event. -/
theorem Channel.place_of_carries (hc : f.carries ch k l = true) {d : ChannelId} {a : Action} (h : f.listeners[l][d] = some a)
    (c : Channel) (now : Time) :
    c.place l a now = { c with deliveries := c.deliveries.set l (f.holdsAfter ch k now d l c.deliveries[l]) } := by
  rw [Channel.place]
  cases hd : c.deliveries[l] <;> simp only [Fabric.holdsAfter, h, hc, if_true, Config.coalescedMax]

theorem State.carry_of_not_carries (h : s.fabric.carries ch k l = false) : s.carry ch k l = s := by
  unfold State.carry
  split
  · rfl
  next e he => exact if_neg (by simpa [Fabric.carries, he] using h)

theorem State.carry_of_carries (h : s.fabric.carries ch k l = true) :
    s.carry ch k l =
      (if s.fabric.tells ch k l then s.report (.line l ch k s.time) else s).placeDeliveries l := by
  unfold State.carry
  split
  next he => simp [Fabric.carries, he] at h
  next e he =>
    have named : e.source = ch ∧ e.kind = k := by simpa [Fabric.carries, he] using h
    rw [if_pos named]
    simp only [Fabric.tells, he, Option.any_some, named, and_self, decide_true, Bool.true_and]

theorem Fabric.carries_of_tells (h : f.tells ch k l = true) : f.carries ch k l = true := by
  unfold Fabric.tells at h
  unfold Fabric.carries
  cases he : f.emitters[l] <;> simp_all

@[simp] theorem State.carry_time (s : State) (ch : ChannelId) (k : EventKind) (l : LineId) : (s.carry ch k l).time = s.time := by
  rcases s.carry_cases ch k l with e | e | e <;> rw [e] <;> rfl

/-- A line's LINE report is the only thing it does to the link unit. -/
theorem State.carry_link (s : State) (ch : ChannelId) (k : EventKind) (l : LineId) :
    (s.carry ch k l).link =
      if s.fabric.tells ch k l then s.link.append (.line l ch k s.time) else s.link := by
  cases hc : s.fabric.carries ch k l with
  | true =>
    rw [State.carry_of_carries hc, State.placeDeliveries_link]
    split <;> rfl
  | false =>
    have silent : ¬s.fabric.tells ch k l = true := fun ht => by simp [Fabric.carries_of_tells ht] at hc
    rw [State.carry_of_not_carries hc, if_neg silent]

/-- The placements of a line that carries the event. -/
theorem State.placeDeliveries_channels (h : s.fabric.carries ch k l = true) (d : ChannelId) :
    (s.placeDeliveries l).channels[d] = (s.channels[d]).map fun c =>
      { c with deliveries := c.deliveries.set l (s.fabric.holdsAfter ch k s.time d l c.deliveries[l]) } := by
  rw [State.placeDeliveries_getElem]
  cases s.channels[d] with
  | none => cases s.fabric.listeners[l][d] <;> rfl
  | some c =>
    cases hl : s.fabric.listeners[l][d] with
    | none => simp [Fabric.holdsAfter_of_no_listener hl]
    | some a => exact congrArg some (Channel.place_of_carries h hl c s.time)

/-- A line changes what each target holds from it, and of the channels nothing else. -/
theorem State.carry_channels (s : State) (ch : ChannelId) (k : EventKind) (l : LineId) (d : ChannelId) :
    (s.carry ch k l).channels[d] = (s.channels[d]).map fun c =>
      { c with deliveries := c.deliveries.set l (s.fabric.holdsAfter ch k s.time d l c.deliveries[l]) } := by
  cases hc : s.fabric.carries ch k l with
  | false => simp [State.carry_of_not_carries hc, Fabric.holdsAfter_of_not_carries hc]
  | true =>
    rw [State.carry_of_carries hc]
    split
    · exact State.placeDeliveries_channels (s := s.report _) hc d
    · exact State.placeDeliveries_channels hc d

end

/-! ### All lines -/

/-- The lines of a list raise their LINE reports in the order of the list. -/
theorem State.foldl_carry_link (ch : ChannelId) (k : EventKind) (ls : List LineId) (s : State) :
    (ls.foldl (fun s l => s.carry ch k l) s).link =
      ((ls.filter (s.fabric.tells ch k)).map fun l => ReportBody.line l ch k s.time).foldl Link.append s.link := by
  induction ls generalizing s with
  | nil => rfl
  | cons l ls ih =>
    rw [List.foldl_cons, ih, State.EmitsUpTo.carry_fabric, State.carry_time, State.carry_link]
    cases ht : s.fabric.tells ch k l <;> simp [ht]

/-- Different lines reach different places of a record, so each line of a list changes what the target held before from it. -/
theorem State.foldl_carry_channels (ch : ChannelId) (k : EventKind) {ls : List LineId} (once : ls.Nodup) (s : State)
    (d : ChannelId) :
    (ls.foldl (fun s l => s.carry ch k l) s).channels[d] = (s.channels[d]).map fun c =>
      { c with deliveries := Vector.ofFn fun l : LineId =>
          if l ∈ ls then s.fabric.holdsAfter ch k s.time d l c.deliveries[l] else c.deliveries[l] } := by
  induction ls generalizing s with
  | nil => simp
  | cons l ls ih =>
    obtain ⟨fresh, once⟩ := List.nodup_cons.mp once
    rw [List.foldl_cons, ih once, State.carry_channels, State.EmitsUpTo.carry_fabric, State.carry_time, Option.map_map]
    congr 1
    funext c
    simp only [Function.comp_apply, Channel.mk.injEq, true_and, and_true]
    congr 1
    funext x
    rw [getElem_set_fin]
    by_cases hx : l = x
    · subst hx
      simp [fresh]
    · simp [hx, Ne.symm hx]

/-- Every target holds what each of the eight lines leaves it. -/
theorem State.raise_channels (s : State) (ch : ChannelId) (k : EventKind) :
    (s.raise ch k).channels = Vector.ofFn fun d : ChannelId => (s.channels[d]).map fun c =>
      { c with deliveries := Vector.ofFn fun l : LineId => s.fabric.holdsAfter ch k s.time d l c.deliveries[l] } := by
  ext1 i hi
  have every : ∀ l : LineId, l ∈ lines := by decide
  have reached := State.foldl_carry_channels ch k (ls := lines) (by decide) s ⟨i, hi⟩
  simp only [every, if_true] at reached
  rw [Vector.getElem_ofFn]
  exact reached

/-- An event touches the channels and the link unit alone. -/
theorem State.raise_frame (s : State) (ch : ChannelId) (k : EventKind) :
    s.raise ch k = { s with channels := (s.raise ch k).channels, link := (s.raise ch k).link } :=
  State.raise_keeps (P := fun t => t = { s with channels := t.channels, link := t.link })
    (fun t b h => by rw [h]; rfl) (fun t l h => by rw [h]; rfl) ch k rfl

end Sys2Proof.Machine
end

section
/-! SUPPORT. The requests on the emitter table one clause at a time (R116 to R118), and the bytes of the listener table (R122). -/

namespace Sys2Proof.Machine

theorem exec_setEmitter (tag : Byte) (body : List Byte) (s : State) :
    exec (.setEmitter tag body) s = .next (s.request ⟨0x30, tag, body⟩ setEmitter) := rfl

theorem exec_clearEmitter (tag : Byte) (body : List Byte) (s : State) :
    exec (.clearEmitter tag body) s = .next (s.request ⟨0x31, tag, body⟩ clearEmitter) := rfl

theorem exec_queryFabric (tag : Byte) (body : List Byte) (s : State) :
    exec (.queryFabric tag body) s = .next (s.request ⟨0x34, tag, body⟩ queryFabric) := rfl

/-! ### Bytes that name no value of a field (R163) -/

theorem flagOf_eq_none {b : Byte} (h : 2 ≤ b.toNat) : flagOf b = none := by
  simp only [flagOf, if_neg (byte_ne_of_le h 0 (by decide)), if_neg (byte_ne_of_le h 1 (by decide))]

theorem eventOf_eq_none {b : Byte} (h : 8 ≤ b.toNat) : eventOf b = none := by
  simp only [eventOf, if_neg (byte_ne_of_le h 0 (by decide)), if_neg (byte_ne_of_le h 1 (by decide)),
    if_neg (byte_ne_of_le h 2 (by decide)), if_neg (byte_ne_of_le h 3 (by decide)), if_neg (byte_ne_of_le h 4 (by decide)),
    if_neg (byte_ne_of_le h 5 (by decide)), if_neg (byte_ne_of_le h 6 (by decide)), if_neg (byte_ne_of_le h 7 (by decide))]

/-! ### What the checks of SET_EMITTER ask -/

/-- The kinds that a role does not raise are those of the other role alone. -/
theorem Role.raises_eq_false_iff (r : Role) (k : EventKind) :
    r.raises k = false ↔ (∃ i, r = .input i ∧ k ∈ [EventKind.mark, .cycle, .swap, .done]) ∨
      (∃ o, r = .output o ∧ k ∈ [EventKind.edge, .timeout, .limit]) := by
  cases r <;> cases k <;> simp [Role.raises]

/-- Taking a request freezes no channel and thaws none. -/
theorem State.taken_isFrozen (s : State) (r : Request) : (s.taken r).isFrozen = s.isFrozen := by
  funext ch
  simp only [State.isFrozen, State.taken_channels]

theorem State.wrongKind_iff (s : State) (ch : ChannelId) (k : EventKind) :
    s.wrongKind ch k = true ↔ ∃ c, s.channels[ch] = some c ∧
      ((∃ i, c.role = .input i ∧ k ∈ [EventKind.mark, .cycle, .swap, .done]) ∨
       (∃ o, c.role = .output o ∧ k ∈ [EventKind.edge, .timeout, .limit])) := by
  unfold State.wrongKind
  cases s.channels[ch] with
  | none => simp only [Bool.false_eq_true, reduceCtorEq, false_and, exists_false]
  | some c => simp only [Bool.not_eq_true', Option.some.injEq, exists_eq_left', Role.raises_eq_false_iff]

theorem State.wrongKind_of_free {s : State} {ch : ChannelId} (h : s.channels[ch] = none) (k : EventKind) :
    s.wrongKind ch k = false := by
  simp only [State.wrongKind, h]

theorem State.lineFrozen_iff (s : State) (l : LineId) :
    s.lineFrozen l = true ↔ ∃ e, s.fabric.emitters[l] = some e ∧ s.isFrozen e.source = true := by
  unfold State.lineFrozen
  cases s.fabric.emitters[l] with
  | none => simp only [Bool.false_eq_true, reduceCtorEq, false_and, exists_false]
  | some e => simp only [Option.some.injEq, exists_eq_left']

/-! ### SET_EMITTER -/

theorem setEmitter_badLength (body : List Byte) (s : State) (h : body.length ≠ 4) : setEmitter body s = .refuse .badLength := by
  unfold setEmitter
  split
  · exact absurd rfl h
  · rfl

section
variable {lb cb kb rb : Byte} {s : State} {l : LineId} {ch : ChannelId} {k : EventKind} {b : Bool}

theorem setEmitter_badField (h : idOf 8 lb = none ∨ idOf 16 cb = none ∨ eventOf kb = none ∨ flagOf rb = none) :
    setEmitter [lb, cb, kb, rb] s = .refuse .badField := by
  simp only [setEmitter]
  split
  case h_1 hl hch hk hb => simp only [hl, hch, hk, hb, reduceCtorEq, or_self] at h
  case h_2 => rfl

/-- Checks 3 to 6 of R116, in a request with valid fields. -/
theorem setEmitter_of_fields (hl : idOf 8 lb = some l) (hch : idOf 16 cb = some ch) (hk : eventOf kb = some k)
    (hb : flagOf rb = some b) :
    setEmitter [lb, cb, kb, rb] s =
      if s.wrongKind ch k then .refuse .badRole
      else if s.isFrozen ch || s.lineFrozen l then .refuse .frozen
      else if s.channels[ch] = none then .refuse .badState
      else if s.fabric.emitters[l] ≠ none then .refuse .conflict
      else .succeed { s with fabric := s.fabric.withEmitter l (some { source := ch, kind := k, report := b }) } [lb] := by
  simp only [setEmitter, hl, hch, hk, hb]

end

/-! ### CLEAR_EMITTER -/

theorem clearEmitter_badLength (body : List Byte) (s : State) (h : body.length ≠ 1) :
    clearEmitter body s = .refuse .badLength := by
  unfold clearEmitter
  split
  · exact absurd rfl h
  · rfl

section
variable {lb : Byte} {s : State} {l : LineId} {e : Emitter}

theorem clearEmitter_badField (h : 8 ≤ lb.toNat) : clearEmitter [lb] s = .refuse .badField := by
  simp only [clearEmitter, idOf_eq_none h]

theorem clearEmitter_notFound (hl : lb.toNat = l.val) (he : s.fabric.emitters[l] = none) :
    clearEmitter [lb] s = .refuse .notFound := by
  simp only [clearEmitter, idOf_eq_some.mpr hl, he]

theorem clearEmitter_frozen (hl : lb.toNat = l.val) (he : s.fabric.emitters[l] = some e) (hf : s.isFrozen e.source = true) :
    clearEmitter [lb] s = .refuse .frozen := by
  simp only [clearEmitter, idOf_eq_some.mpr hl, he, if_pos hf]

/-- R118: the entry is removed and its source and kind are told. -/
theorem clearEmitter_clears (hl : lb.toNat = l.val) (he : s.fabric.emitters[l] = some e) (hf : s.isFrozen e.source = false) :
    clearEmitter [lb] s =
      .succeed { s with fabric := s.fabric.withEmitter l none } [idByte e.source, eventByte e.kind] := by
  simp only [clearEmitter, idOf_eq_some.mpr hl, he, hf, Bool.false_eq_true, if_false]

end

/-! ### QUERY_FABRIC -/

theorem queryFabric_badLength (body : List Byte) (s : State) (h : body.length ≠ 0) :
    queryFabric body s = .refuse .badLength := by
  unfold queryFabric
  split
  · exact absurd rfl h
  · rfl

/-- R122: both tables are told, the count of the listener entries before their bytes. -/
theorem queryFabric_tells (s : State) :
    queryFabric [] s = .succeed s (lines.flatMap (fun l => emitterBytes s.fabric.emitters[l]) ++
      [byte1 (s.fabric.entries.map listenerBytes).length] ++ (s.fabric.entries.map listenerBytes).flatten) := by
  rw [List.length_map, ← List.flatMap_def]
  rfl

/-- The listener entries, each as the bytes that tell it, by line and then by target. -/
theorem Fabric.entries_map_listenerBytes (f : Fabric) :
    f.entries.map listenerBytes = lines.flatMap fun l => channelIds.filterMap fun d =>
      (f.listeners[l][d]).map fun a => [idByte l, idByte d, actionByte a] := by
  simp only [Fabric.entries, List.map_flatMap, List.map_filterMap, Option.map_map]
  rfl

end Sys2Proof.Machine
end

section
/-! SUPPORT. The statements on the event lines: the requests on their tables, and events. -/

namespace Sys2Proof.Machine

/-- Settles O25: each check of R116 and R118 in turn, read off the owner's answer in the taken state. -/
theorem emitterEntriesAreSetAndCleared : Obligations.EmitterEntriesAreSetAndCleared := by
  refine ⟨fun tag lb cb kb rb s => ⟨?_, ?_⟩, fun tag lb s => ⟨?_, ?_⟩⟩
  · exact s.refusesLength_of_owner (exec_setEmitter tag · s) setEmitter_badLength
  · intro r t x h
    have answer {a : Answer} (ha : setEmitter [lb, cb, kb, rb] t = a) : x = .next (t.conclude r a) :=
      exec_of_takes (exec_setEmitter tag [lb, cb, kb, rb] s) h ha
    have hchannels : t.channels = s.channels := s.taken_channels r
    have hfabric : t.fabric = s.fabric := s.taken_fabric r
    have hfrozen : t.isFrozen = s.isFrozen := s.taken_isFrozen r
    rw [← hchannels, ← hfabric, ← hfrozen]
    refine ⟨fun bad => ?_, fun l ch k b hlb hcb hkb hrb => ?_⟩
    · exact answer (setEmitter_badField
        (bad.imp idOf_eq_none (.imp idOf_eq_none (.imp eventOf_eq_none flagOf_eq_none))))
    have checks := setEmitter_of_fields (s := t) (idOf_eq_some.mpr hlb) (idOf_eq_some.mpr hcb)
      (hkb ▸ eventOf_eventByte k) (hrb ▸ flagOf_flagByte b)
    have frozen : (t.isFrozen ch || t.lineFrozen l) = true ↔
        t.isFrozen ch = true ∨ ∃ e, t.fabric.emitters[l] = some e ∧ t.isFrozen e.source = true := by
      rw [Bool.or_eq_true, State.lineFrozen_iff]
    simp only [← t.wrongKind_iff, ← frozen]
    refine ⟨fun wrong => ?_, fun right still => ?_, fun moving free => ?_, fun right moving bound occupied => ?_,
      fun right moving bound vacant => ?_⟩
    · rw [if_pos wrong] at checks
      exact answer checks
    · rw [if_neg right, if_pos still] at checks
      exact answer checks
    · have right : ¬t.wrongKind ch k = true := Bool.not_eq_true _ |>.mpr (State.wrongKind_of_free free k)
      rw [if_neg right, if_neg moving, if_pos free] at checks
      exact answer checks
    · rw [if_neg right, if_neg moving, if_neg bound, if_pos occupied] at checks
      exact answer checks
    · rw [if_neg right, if_neg moving, if_neg bound, if_neg (not_not.mpr vacant)] at checks
      exact answer checks
  · exact s.refusesLength_of_owner (exec_clearEmitter tag · s) clearEmitter_badLength
  · intro r t x h
    have answer {a : Answer} (ha : clearEmitter [lb] t = a) : x = .next (t.conclude r a) :=
      exec_of_takes (exec_clearEmitter tag [lb] s) h ha
    have hfabric : t.fabric = s.fabric := s.taken_fabric r
    have hfrozen : t.isFrozen = s.isFrozen := s.taken_isFrozen r
    rw [← hfabric, ← hfrozen]
    refine ⟨fun bad => answer (clearEmitter_badField bad), fun l hl => ⟨fun he => ?_, fun e he => ⟨fun hf => ?_, fun hf => ?_⟩⟩⟩
    · exact answer (clearEmitter_notFound hl he)
    · exact answer (clearEmitter_frozen hl he hf)
    · exact answer (clearEmitter_clears hl he hf)

/-- Settles O27: the tables' bytes in the order of R122, counted and joined from the same list of listener entries. -/
theorem queryFabricTellsTables : Obligations.QueryFabricTellsTables := by
  refine fun tag s => ⟨?_, ?_⟩
  · exact s.refusesLength_of_owner (exec_queryFabric tag · s) queryFabric_badLength
  intro r emitter listeners h
  rw [exec_of_takes (exec_queryFabric tag [] s) h (queryFabric_tells _), s.taken_fabric, Fabric.entries_map_listenerBytes]
  rfl

/-- Settles O37: the frame of an event, then the reports and the placements of the eight lines. -/
theorem eventsReachListeners : Obligations.EventsReachListeners := by
  intro s ch k carries told
  rw [s.raise_frame, State.raise_channels, State.raise, State.foldl_carry_link]
  rfl

end Sys2Proof.Machine
end

section
/-! SUPPORT. The arrival checks of R147 one outcome at a time, what taking a request leaves of the link unit, the two queries of the
device (R29, R158), and the levels on the output pins (R33, R139, R157). -/

namespace Sys2Proof.Machine

/-! ### The arrival checks (R147) -/

section
variable {k : Link} {r : Request}

/-- Where no tag stands twice, an entry of the replay table is the one that a search for its tag finds. -/
theorem Link.TagsDistinct.find_replay {e : ReplayEntry} (hk : k.TagsDistinct) (he : e ∈ k.replay) (ht : e.tag = r.tag) :
    k.replay.find? (fun e => decide (e.tag = r.tag)) = some e := by
  have distinct : (k.replay.map ReplayEntry.tag).Nodup := (List.nodup_append.mp hk).2.1
  cases found : k.replay.find? (fun e => decide (e.tag = r.tag)) with
  | none => exact absurd (decide_eq_true ht) (List.find?_eq_none.mp found e he)
  | some x =>
    have same : x.tag = e.tag := by
      simpa only [ht, decide_eq_true_eq] using List.find?_some found
    rw [List.inj_on_of_nodup_map distinct (List.mem_of_find?_eq_some found) he same]

/-- Check 1: the reply to the same request is sent again. -/
theorem Link.arrive_of_replay {e : ReplayEntry} (hk : k.TagsDistinct) (he : e ∈ k.replay) (ht : e.tag = r.tag)
    (hc : e.crc = r.crc) : k.arrive r = k.pushReply e.reply := by
  simp only [Link.arrive, hk.find_replay he ht, if_pos hc]

/-- Check 2: a request that the replay table does not answer goes on to the other checks, with no entry of its tag left. -/
theorem Link.arrive_of_new (h : ∀ e ∈ k.replay, e.tag = r.tag → e.crc ≠ r.crc) : k.arrive r = (k.forget r.tag).screen r := by
  rcases k.arrive_cases r with ⟨e, he, ht, hc, _⟩ | screened
  · exact absurd hc (h e he ht)
  · exact screened

/-- Check 3: a second request with a waiting tag is discarded. -/
theorem Link.screen_of_waiting (h : r.tag ∈ k.requests.map Request.tag) : k.screen r = k := by
  simp only [Link.screen, if_pos (List.contains_iff_mem.mpr h)]

/-- Check 4: the request queue is full. -/
theorem Link.screen_of_full (h : r.tag ∉ k.requests.map Request.tag) (full : Config.requestSlots ≤ k.requests.length) :
    k.screen r = k.pushReply (replyFrame r [statusByte .queueFull]) := by
  simp only [Link.screen, if_neg (mt List.contains_iff_mem.mp h), if_neg (Nat.not_lt.mpr full)]

/-- Check 5: the request joins the queue. -/
theorem Link.screen_of_room (h : r.tag ∉ k.requests.map Request.tag) (room : k.requests.length < Config.requestSlots) :
    k.screen r = { k with requests := k.requests ++ [r] } := by
  simp only [Link.screen, if_neg (mt List.contains_iff_mem.mp h), if_pos room]

end

/-! ### What taking a request leaves of the link unit -/

theorem State.taken_credit (s : State) (r : Request) : (s.taken r).link.credit = s.link.credit := by
  rw [s.taken_link]

theorem State.taken_reports (s : State) (r : Request) : (s.taken r).link.reports = s.link.reports := by
  rw [s.taken_link]

theorem State.taken_lost (s : State) (r : Request) : (s.taken r).link.lost = s.link.lost := by
  rw [s.taken_link]

/-! ### QUERY_DEVICE and READ_TIME -/

theorem exec_queryDevice (tag : Byte) (body : List Byte) (s : State) :
    exec (.queryDevice tag body) s = .next (s.request ⟨0x01, tag, body⟩ queryDevice) := rfl

theorem exec_readTime (tag : Byte) (body : List Byte) (s : State) :
    exec (.readTime tag body) s = .next (s.request ⟨0x02, tag, body⟩ readTime) := rfl

theorem queryDevice_badLength (body : List Byte) (s : State) (h : body.length ≠ 0) :
    queryDevice body s = .refuse .badLength := by
  match body, h with
  | _ :: _, _ => rfl

theorem readTime_badLength (body : List Byte) (s : State) (h : body.length ≠ 0) : readTime body s = .refuse .badLength := by
  match body, h with
  | _ :: _, _ => rfl

/-- R158, R166: what the link unit tells of each block. -/
theorem queryDevice_tells (s : State) :
    queryDevice [] s = .succeed s
      ([0x5B, 0x02] ++ timeBytes s.time ++ [pinHoldByte s.hold.pinHold, flagByte s.hold.request] ++
        bytes2 s.store.free ++ [byte1 s.store.defined, byte1 s.link.credit, byte1 s.link.reports.length] ++
        bytes2 s.link.lost ++ [byte1 s.link.requests.length]) := rfl

/-- R29: device time and the four divisors minus one. -/
theorem readTime_tells (s : State) :
    readTime [] s = .succeed s
      (timeBytes s.time ++ bytes2 (s.timebases[0].divisor - 1) ++ bytes2 (s.timebases[1].divisor - 1) ++
        bytes2 (s.timebases[2].divisor - 1) ++ bytes2 (s.timebases[3].divisor - 1)) := rfl

/-! ### The level of a timing pin (R33, R63) -/

section
variable {s : State} {p : PinId} {ch : ChannelId} {c : Channel}

theorem State.pinLevel_of_unbound (hb : s.pinTable[p] = none) : s.pinLevel p = .float := by
  simp only [State.pinLevel, hb]

theorem State.pinLevel_of_input {i : InputRole} (hb : s.pinTable[p] = some ch) (hc : s.channels[ch] = some c)
    (hr : c.role = .input i) : s.pinLevel p = .float := by
  simp only [State.pinLevel, hb, hc, hr]

/-- WAITING shows the idle level, as a channel that is out of play and not in DONE does. -/
theorem State.outputLevel_of_waiting {o : OutputRole} (ha : c.activity = .waiting) : s.outputLevel c o = o.idleLevel := by
  simp only [State.outputLevel, ha]

end

/-! ### ATTN_N and LTX (R139, R157) -/

theorem State.attnN_low_iff (s : State) : s.attnN = .low ↔ s.link.reports ≠ [] ∧ s.link.credit = 0 := by
  unfold State.attnN
  split
  case isTrue waiting => exact ⟨fun _ => waiting, fun _ => rfl⟩
  case isFalse other => exact ⟨nofun, fun waiting => absurd waiting other⟩

theorem characterBit_start (b : Byte) : characterBit b 0 = .low := rfl

/-- The places after the start bit hold the data bits, the least significant first. -/
theorem characterBit_data (b : Byte) {n : Nat} (hn : n < 8) :
    characterBit b (n + 1) = if b.getLsbD n then .high else .low := by
  simp only [characterBit, if_neg n.succ_ne_zero, if_pos (Nat.succ_le_of_lt hn), Nat.add_sub_cancel]

theorem characterBit_stop (b : Byte) : characterBit b 9 = .high := rfl

section
variable {s : State}

theorem State.ltx_of_idle (h : s.link.transmission = none) : s.ltx = .high := by
  simp only [State.ltx, h]

/-- Base tick `j` of byte `k`'s character sends the bit whose 50 base ticks `j` falls in. -/
theorem State.ltx_of_sending {t : Transmission} {k j : Nat} {b : Byte} (place : Nat) (ht : s.link.transmission = some t)
    (hb : t.bytes[k]? = some b) (he : t.elapsed = 500 * k + j) (lo : 50 * place ≤ j) (hi : j < 50 * (place + 1))
    (hp : place ≤ 9) : s.ltx = characterBit b place := by
  have byte : t.elapsed / Config.characterTicks = k := by
    rw [he, Config.characterTicks]
    omega
  have bit : t.elapsed % Config.characterTicks / Config.bitTicks = place := by
    rw [he, Config.characterTicks, Config.bitTicks]
    omega
  simp only [State.ltx, ht, byte, hb, bit]

end

end Sys2Proof.Machine
end

section
/-! SUPPORT. The statements on the host link: arrivals, the queries of the device, and the output pins. -/

namespace Sys2Proof.Machine

/-- Settles O4: the replay table answers the request itself, or forgets its tag and leaves it to the three outcomes of the queue. -/
theorem arrivalChecks : Obligations.ArrivalChecks := by
  refine fun k r distinct => ⟨fun e he ht hc => ?_, ?_⟩
  · exact Link.arrive_of_replay distinct he ht hc
  intro new j
  rw [Link.arrive_of_new new]
  refine ⟨fun waiting => ?_, fun absent full => ?_, fun absent room => ?_⟩
  · exact Link.screen_of_waiting waiting
  · exact Link.screen_of_full (k := k.forget r.tag) absent full
  · exact Link.screen_of_room (k := k.forget r.tag) absent room

/-- Settles O7: the owners tell what they find in the taken state, which differs from `s` in the link unit's queues and replay table alone. -/
theorem deviceQueriesTell : Obligations.DeviceQueriesTell := by
  refine fun tag s => ⟨⟨?_, ?_⟩, ?_, ?_⟩
  · exact s.refusesLength_of_owner (exec_queryDevice tag · s) queryDevice_badLength
  · intro r t h
    obtain ⟨hrequests, _, _⟩ := State.taken_queues h
    rw [exec_of_takes (exec_queryDevice tag [] s) h (queryDevice_tells _), State.conclude_succeed, hrequests, s.taken_time,
      s.taken_hold, s.taken_store, s.taken_credit, s.taken_reports, s.taken_lost]
  · exact s.refusesLength_of_owner (exec_readTime tag · s) readTime_badLength
  · intro r t h
    rw [exec_of_takes (exec_readTime tag [] s) h (readTime_tells _), State.conclude_succeed, s.taken_time, s.taken_timebases]

/-- Settles O43: the pin table, the role and the activity choose a timing pin's level; the place in the character chooses LTX's bit. -/
theorem pinsShowLevels : Obligations.PinsShowLevels := by
  refine ⟨fun p s => ⟨State.pinLevel_of_unbound, fun ch c hb hc => ⟨fun i hr => ?_, fun o hr => ?_⟩⟩,
    fun s => ⟨s.attnN_low_iff, State.ltx_of_idle, fun t k j b ht hk he => ?_⟩⟩
  · exact State.pinLevel_of_input hb hc hr
  · rw [State.pinLevel_of_output hb hc hr]
    refine ⟨fun rest => ?_, fun l done hl => ?_, fun q pat g running hq hpat hg => ?_⟩
    · rcases rest with idle | waiting | halted
      · exact State.outputLevel_of_atRest (by simp [Channel.inPlay, idle]) (by simp [idle])
      · exact State.outputLevel_of_waiting waiting
      · exact State.outputLevel_of_atRest (by simp [Channel.inPlay, halted]) (by simp [halted])
    · exact State.outputLevel_of_done done hl
    · exact State.outputLevel_of_running running (State.activePattern_of_defined hq hpat) hg
  · have sends (place : Nat) := State.ltx_of_sending place ht hk he
    refine ⟨fun start => ?_, fun n hn lo hi => ?_, fun lo hi => ?_⟩
    · rw [sends 0 (by omega) (by omega) (by omega), characterBit_start]
    · rw [sends (n + 1) lo hi (by omega), characterBit_data b hn]
    · rw [sends 9 (by omega) (by omega) (by omega), characterBit_stop]

end Sys2Proof.Machine
end

section
/-! SUPPORT. What a command can do, said once for all of them: the link unit alone, an executed request, a channel's tick, or a change of the
pin hold. And what of the state no command touches. -/

namespace Sys2Proof.Machine

/-- Everything that a command other than COLD_RESET can do. -/
inductive State.CommandLeaves (s : State) : State → Prop where
  | link {t : State} (h : s.LinkOnly t) : State.CommandLeaves s t
  | request (r : Request) {u : State} (takes : s.takes r = true) (effect : (s.taken r).Effect u) (results : List Byte) :
      State.CommandLeaves s (u.answered r .ok results)
  | tick (ch : ChannelId) (y : Sample) : State.CommandLeaves s (s.tickChannel ch y)
  | pinHold : State.CommandLeaves s s.changePinHold

namespace State.CommandLeaves

variable {s t : State}

theorem of_request {o : List Byte → State → Answer} (ho : o ∈ owners) (s : State) (r : Request) :
    s.CommandLeaves (s.request r o) := by
  rcases s.request_cases r o with ⟨_, e⟩ | ⟨_, _, e⟩ | ⟨takes, e⟩ <;> rw [e]
  · exact .link (.refl s)
  · exact .link (s.arrived_linkOnly r)
  · cases answer : o r.body (s.taken r) with
    | refuse st => exact .link ((s.arrived_linkOnly r).trans rfl)
    | succeed u results => exact .request r takes (owner_effect ho answer) results

theorem of_working (h : s.LinkOnly t) : s.CommandLeaves (s.working t) := by
  unfold State.working
  split
  · exact .link (.refl s)
  · exact .link h

theorem of_tickWhen (s : State) (ch : ChannelId) (y : Sample) (happens : Bool) :
    s.CommandLeaves (s.tickWhen ch y happens) := by
  unfold State.tickWhen
  split
  · exact .tick ch y
  · exact .link (.refl s)

end State.CommandLeaves

/-- A request of no assigned KIND only arrives, or is answered with its refusal. -/
theorem State.request_refuse_linkOnly (s : State) (r : Request) (st : Status) :
    s.LinkOnly (s.request r fun _ _ => .refuse st) := by
  rcases s.request_cases r fun _ _ => .refuse st with ⟨_, e⟩ | ⟨_, _, e⟩ | ⟨_, e⟩ <;> rw [e]
  · exact .refl s
  · exact s.arrived_linkOnly r
  · exact (s.arrived_linkOnly r).trans rfl

/-- Every command but COLD_RESET does one of these things. -/
theorem exec_leaves {i : Instr} {s t : State} (notCold : ∀ holdN lrx, i ≠ .coldReset holdN lrx) (e : exec i s = .next t) :
    s.CommandLeaves t := by
  cases i <;> simp only [exec] at e
  case coldReset holdN lrx => exact absurd rfl (notCold holdN lrx)
  case badKind kind tag body =>
    cases e
    split
    · exact .link (.refl s)
    · exact .link (s.request_refuse_linkOnly _ _)
  case frameEnd =>
    cases e
    refine .of_working ?_
    split
    · exact s.judge_linkOnly _ _ _
    · exact .refl s
  case badLen =>
    cases e
    refine .of_working ?_
    split
    · rfl
    · exact .refl s
  case gapTimeout => cases e; exact .of_working s.gapExpires_linkOnly
  case linkReset => cases e; exact .of_working rfl
  case transmitterFree => cases e; exact .of_working rfl
  case byteArrives => cases e; exact .of_working (s.receiveByte_linkOnly _)
  case framingError => cases e; exact .of_working rfl
  case pinHoldChange =>
    cases e
    unfold State.working
    split
    · exact .link (.refl s)
    · exact .pinHold
  case channelTick => cases e; exact .of_tickWhen s _ _ _
  case pendingDeliveryApplied => cases e; exact .of_tickWhen s _ _ _
  case enterRunning => cases e; exact .of_tickWhen s _ _ _
  case segmentEnd => cases e; exact .of_tickWhen s _ _ _
  case edgeAccepted => cases e; exact .of_tickWhen s _ _ _
  case timeoutExpiry => cases e; exact .of_tickWhen s _ _ _
  all_goals
    cases e
    exact .of_request (by simp [owners]) s _

/-! ### What lies outside the part -/

/-- `t` has the queue of commands and the outside world's script of `s`. -/
structure State.SameOutside (s t : State) : Prop where
  pending : t.pending = s.pending
  script : t.script = s.script
  unscripted : t.unscripted = s.unscripted

theorem State.startOutput_outside (s : State) (f : StartFields) (c : Channel) (o : OutputRole) :
    s.SameOutside (s.startOutput f c o) := by
  unfold State.startOutput
  split <;> exact ⟨rfl, rfl, rfl⟩

theorem State.Effect.sameOutside {s t : State} (h : s.Effect t) : s.SameOutside t := by
  cases h
  case holdEntry => exact ⟨by simp, by simp, by simp⟩
  case startOutput => exact s.startOutput_outside _ _ _
  all_goals exact ⟨rfl, rfl, rfl⟩

theorem State.changePinHold_outside (s : State) : s.SameOutside s.changePinHold := by
  rcases s.changePinHold_cases with ⟨_, _, e⟩ | ⟨_, _, e⟩ | ⟨_, p, e⟩ <;> rw [e] <;> exact ⟨by simp, by simp, by simp⟩

theorem State.CommandLeaves.sameOutside {s t : State} (h : s.CommandLeaves t) : s.SameOutside t := by
  cases h with
  | link h => rw [h]; exact ⟨rfl, rfl, rfl⟩
  | request r takes effect results =>
    obtain ⟨pending, script, unscripted⟩ := effect.sameOutside
    exact ⟨pending.trans (s.taken_pending r), script.trans (s.taken_script r), unscripted.trans (s.taken_unscripted r)⟩
  | tick ch y =>
    have plays := State.Plays.tickChannel s ch y
    exact ⟨plays.pending, plays.script, plays.unscripted⟩
  | pinHold => exact s.changePinHold_outside

theorem exec_answers (i : Instr) (s : State) : ∃ t, exec i s = .next t := by
  cases i <;> exact ⟨_, rfl⟩

/-- Settles O2: every meaning answers a next state, and of the parts of a state that a command leaves, none is outside. -/
theorem everyCommandCompletes : Obligations.EveryCommandCompletes := by
  intro i s
  obtain ⟨t, e⟩ := exec_answers i s
  have kept : s.SameOutside t := by
    by_cases cold : ∃ holdN lrx, i = .coldReset holdN lrx
    · obtain ⟨holdN, lrx, rfl⟩ := cold
      cases e
      exact ⟨rfl, rfl, rfl⟩
    · exact (exec_leaves (fun holdN lrx h => cold ⟨holdN, lrx, h⟩) e).sameOutside
  exact ⟨t, e, kept.pending, kept.script, kept.unscripted⟩

end Sys2Proof.Machine
end

section
/-! SUPPORT. What a frozen channel is wired to stays so under every command but a cold reset (R37, R39). -/

namespace Sys2Proof.Machine

/-- In `t` the channel still has the wiring of `c`, and the fabric entries and the timebase divisor that it has in `s`. -/
structure State.KeepsWiring (s t : State) (ch : ChannelId) (c : Channel) : Prop where
  record : ∃ d, t.channels[ch] = some d ∧ d.wiring = c.wiring
  emitters : ∀ (l : LineId) (e : Emitter), e.source = ch → (t.fabric.emitters[l] = some e ↔ s.fabric.emitters[l] = some e)
  listeners : ∀ l : LineId, t.fabric.listeners[l][ch] = s.fabric.listeners[l][ch]
  divisor : t.timebases[c.timebase].divisor = s.timebases[c.timebase].divisor

namespace State.KeepsWiring

variable {s t : State} {ch : ChannelId} {c : Channel}

/-- Commands that touch neither the fabric nor the timebases keep the wiring where the record keeps it. -/
theorem of_record (record : ∃ d, t.channels[ch] = some d ∧ d.wiring = c.wiring) (fabric : t.fabric = s.fabric)
    (timebases : t.timebases = s.timebases) : s.KeepsWiring t ch c :=
  ⟨record, fun _ _ _ => by rw [fabric], fun _ => by rw [fabric], by rw [timebases]⟩

/-- Where the channels, the fabric and the timebases stay, so does the wiring. -/
theorem of_same (hc : s.channels[ch] = some c) (channels : t.channels = s.channels) (fabric : t.fabric = s.fabric)
    (timebases : t.timebases = s.timebases) : s.KeepsWiring t ch c :=
  of_record ⟨c, channels ▸ hc, rfl⟩ fabric timebases

/-- A new record keeps the wiring of a frozen channel where it keeps that of the channel it is written to. -/
theorem of_set {x : ChannelId} {d d' : Channel} (hc : s.channels[ch] = some c) (hd : s.channels[x] = some d)
    (channels : t.channels = s.channels.set x (some d')) (same : x = ch → d'.wiring = d.wiring)
    (fabric : t.fabric = s.fabric) (timebases : t.timebases = s.timebases) : s.KeepsWiring t ch c := by
  refine of_record ?_ fabric timebases
  rw [channels, getElem_set_fin]
  by_cases at_x : x = ch
  · subst at_x
    cases hd.symm.trans hc
    exact ⟨d', by rw [if_pos rfl], same rfl⟩
  · exact ⟨c, by rw [if_neg at_x, hc], rfl⟩

/-- The channels after a cause that keeps every record's wiring. -/
theorem of_wiring (hc : s.channels[ch] = some c) (wiring : t.channels[ch].map Channel.wiring = s.channels[ch].map Channel.wiring)
    (fabric : t.fabric = s.fabric) (timebases : t.timebases = s.timebases) : s.KeepsWiring t ch c := by
  rw [hc] at wiring
  obtain ⟨d, hd, same⟩ := Option.map_eq_some_iff.mp wiring
  exact of_record ⟨d, hd, same⟩ fabric timebases

end State.KeepsWiring

/-- The entry into hold halts output channels, and so keeps every record's wiring. -/
theorem State.enterHold_wiring (s : State) (cause : HoldCause) (x : ChannelId) :
    (s.enterHold cause).channels[x].map Channel.wiring = s.channels[x].map Channel.wiring := by
  refine State.enterHold_keeps (P := fun t => t.channels[x].map Channel.wiring = s.channels[x].map Channel.wiring)
    (fun _ _ h => h) (fun t y d hd _ _ h => ?_) cause rfl
  rw [State.setChannel_getElem]
  split
  case isTrue at_x =>
    subst at_x
    rw [← h, hd]
    simp only [Option.map_some, d.wiring_halt]
  case isFalse => exact h

theorem State.isFrozen_of_some {s : State} {ch : ChannelId} {c : Channel} (hc : s.channels[ch] = some c) :
    s.isFrozen ch = c.frozen := by
  simp only [State.isFrozen, hc]

section
variable {s : State} {ch : ChannelId} {c : Channel}

/-- R31, R51, R129: the warm reset spares what serves a frozen channel. -/
theorem State.warmReset_keepsWiring (hc : s.channels[ch] = some c) (frozen : c.frozen = true) : s.KeepsWiring s.warmReset ch c := by
  have still : s.isFrozen ch = true := (State.isFrozen_of_some hc).trans frozen
  refine ⟨⟨c.cleared s.time, ?_, ?_⟩, fun l e he => ?_, fun l => ?_, ?_⟩
  · rw [State.warmReset_channels, getElem_ofFn_fin, hc, resetChannel, if_pos frozen]
  · cases hr : c.role <;> simp only [Channel.wiring, Channel.cleared, hr] <;> rfl
  · simp only [State.warmReset_fabric, State.resetFabric, getElem_ofFn_fin]
    split
    case h_1 none => simp only [none]
    case h_2 e' some =>
      rw [some]
      split
      case isTrue => rfl
      case isFalse thawed =>
        simp only [reduceCtorEq, Option.some.injEq, false_iff]
        rintro rfl
        exact thawed (he ▸ still)
  · simp only [State.warmReset_fabric, State.resetFabric, getElem_ofFn_fin, if_pos still]
  · rw [State.warmReset_timebases, getElem_ofFn_fin, State.resetTimebase,
      if_pos (State.anyOn_eq_true.mpr ⟨ch, c, hc, rfl, frozen⟩)]

/-- R36: a channel that becomes FREE takes its own entries with it and no others. -/
theorem State.freeChannel_keepsWiring (hc : s.channels[ch] = some c) {x : ChannelId} (other : x ≠ ch) (d : Channel) :
    s.KeepsWiring (s.freeChannel x d) ch c := by
  obtain ⟨_, _, emitters, _⟩ := s.freeChannel_freed x d
  refine ⟨⟨c, ?_, rfl⟩, fun l e he => ?_, fun l => ?_, rfl⟩
  · rw [State.freeChannel_channels, getElem_set_fin, if_neg other, hc]
  · rw [emitters l e, he]
    exact and_iff_left other.symm
  · simp only [State.freeChannel_fabric, Fabric.without, getElem_ofFn_fin, getElem_set_fin, if_neg other]

/-- A SET_EMITTER or CLEAR_EMITTER of another source keeps the emitters of this one. -/
theorem State.withEmitter_keepsWiring (hc : s.channels[ch] = some c) {l : LineId} {e : Option Emitter}
    (now : ∀ f, e = some f → f.source ≠ ch) (before : ∀ f, s.fabric.emitters[l] = some f → f.source ≠ ch) :
    s.KeepsWiring { s with fabric := s.fabric.withEmitter l e } ch c := by
  refine ⟨⟨c, hc, rfl⟩, fun k f hf => ?_, fun _ => rfl, rfl⟩
  simp only [Fabric.withEmitter, getElem_set_fin]
  split
  case isTrue at_l =>
    subst at_l
    exact ⟨fun h => absurd hf (now f h), fun h => absurd hf (before f h)⟩
  case isFalse => exact Iff.rfl

/-- An ADD_LISTENER or REMOVE_LISTENER of another target keeps the listeners of this one. -/
theorem State.withListener_keepsWiring (hc : s.channels[ch] = some c) {l : LineId} {x : ChannelId} (other : x ≠ ch)
    (a : Option Action) : s.KeepsWiring { s with fabric := s.fabric.withListener l x a } ch c := by
  refine ⟨⟨c, hc, rfl⟩, fun _ _ _ => Iff.rfl, fun k => ?_, rfl⟩
  simp only [Fabric.withListener, getElem_set_fin]
  split
  case isTrue at_l =>
    subst at_l
    rw [getElem_set_fin, if_neg other]
  case isFalse => rfl

/-- A channel with its frozen flag clear is not this one. -/
theorem ne_of_unfrozen (hc : s.channels[ch] = some c) (frozen : c.frozen = true) {x : ChannelId} {d : Channel}
    (hd : s.channels[x] = some d) (unfrozen : d.frozen = false) : x ≠ ch := by
  rintro rfl
  cases hc.symm.trans hd
  exact absurd (frozen.symm.trans unfrozen) nofun

theorem ne_of_not_isFrozen (hc : s.channels[ch] = some c) (frozen : c.frozen = true) {x : ChannelId}
    (unfrozen : s.isFrozen x = false) : x ≠ ch := by
  rintro rfl
  rw [State.isFrozen_of_some hc, frozen] at unfrozen
  cases unfrozen

/-- Every effect of an executed request spares what a frozen channel is wired to. -/
theorem State.Effect.keepsWiring {t : State} (h : s.Effect t) (hc : s.channels[ch] = some c) (frozen : c.frozen = true) :
    s.KeepsWiring t ch c := by
  cases h with
  | same => exact .of_same hc rfl rfl rfl
  | credit => exact .of_same hc rfl rfl rfl
  | warm => exact State.warmReset_keepsWiring hc frozen
  | timebase tb d lo hi unfrozen resting =>
    have other : tb ≠ c.timebase := fun h => by
      rw [State.anyOn_eq_true.mpr ⟨ch, c, hc, h.symm, frozen⟩] at unfrozen
      cases unfrozen
    exact ⟨⟨c, hc, rfl⟩, fun _ _ _ => Iff.rfl, fun _ => rfl, by rw [getElem_set_fin, if_neg other]⟩
  | holdOn => exact .of_same hc rfl rfl rfl
  | holdEntry => exact .of_wiring hc (State.enterHold_wiring _ _ ch) (by simp) (by simp)
  | holdExit => exact .of_same hc rfl rfl rfl
  | release => exact .of_same hc rfl rfl rfl
  | define => exact .of_same hc rfl rfl rfl
  | delete => exact .of_same hc rfl rfl rfl
  | bind x r p tb role isFree pinFree =>
    have other : x ≠ ch := by rintro rfl; cases isFree.symm.trans hc
    exact .of_record ⟨c, by rw [getElem_set_fin, if_neg other, hc], rfl⟩ rfl rfl
  | becomesFree x d hd unfrozen => exact State.freeChannel_keepsWiring hc (ne_of_unfrozen hc frozen hd unfrozen) d
  | freeze x d hd =>
    refine .of_set hc hd rfl (fun at_x => ?_) rfl rfl
    subst at_x
    cases hc.symm.trans hd
    simp only [Channel.wiring, frozen]
  | clear x d hd _ =>
    refine .of_set hc hd rfl (fun _ => ?_) rfl rfl
    cases hr : d.role <;> simp only [Channel.wiring, Channel.cleared, hr] <;> rfl
  | idleLevel x d o l hd role unfrozen resting =>
    exact .of_set hc hd rfl (fun at_x => absurd at_x (ne_of_unfrozen hc frozen hd unfrozen)) rfl rfl
  | inputSettings x d i j hd role unfrozen resting progress =>
    exact .of_set hc hd rfl (fun at_x => absurd at_x (ne_of_unfrozen hc frozen hd unfrozen)) rfl rfl
  | stage x d o p w hd role => exact .of_set hc hd rfl (fun _ => by simp only [Channel.wiring, role]; rfl) rfl rfl
  | activate x d o p hd role => exact .of_set hc hd rfl (fun _ => by simp only [Channel.wiring, role]; rfl) rfl rfl
  | unstage x d o g hd role => exact .of_set hc hd rfl (fun _ => by simp only [Channel.wiring, role]; rfl) rfl rfl
  | startOutput f d o hd role =>
    unfold State.startOutput
    split <;> exact .of_set hc hd rfl (fun _ => by simp only [Channel.wiring, role]; rfl) rfl rfl
  | startInput f d i hd role => exact .of_set hc hd rfl (fun _ => by simp only [Channel.wiring, role]; rfl) rfl rfl
  | stop x d hd => exact .of_set hc hd rfl (fun _ => d.wiring_halt _) rfl rfl
  | emitter l e d bound valid unfrozen isFree =>
    exact State.withEmitter_keepsWiring hc (fun f hf => Option.some.inj hf ▸ ne_of_unfrozen hc frozen bound unfrozen)
      (fun f hf => by cases isFree.symm.trans hf)
  | noEmitter l e present unfrozen =>
    refine State.withEmitter_keepsWiring hc nofun fun f hf => ?_
    cases present.symm.trans hf
    exact ne_of_not_isFrozen hc frozen unfrozen
  | listener l x a d bound valid unfrozen => exact State.withListener_keepsWiring hc (ne_of_unfrozen hc frozen bound unfrozen) _
  | noListener l x a present unfrozen => exact State.withListener_keepsWiring hc (ne_of_not_isFrozen hc frozen unfrozen) _

theorem State.CommandLeaves.keepsWiring {t : State} (h : s.CommandLeaves t) (hc : s.channels[ch] = some c)
    (frozen : c.frozen = true) : s.KeepsWiring t ch c := by
  cases h with
  | link h => exact .of_same hc (by rw [h]) (by rw [h]) (by rw [h])
  | request r takes effect results =>
    obtain ⟨record, emitters, listeners, divisor⟩ := effect.keepsWiring ((s.taken_channels r).symm ▸ hc) frozen
    simp only [State.taken_fabric, State.taken_timebases] at emitters listeners divisor
    exact ⟨record, emitters, listeners, divisor⟩
  | tick x y =>
    have plays := State.Plays.tickChannel s x y
    exact .of_wiring hc (plays.wiring ch) plays.fabric plays.timebases
  | pinHold =>
    rcases s.changePinHold_cases with ⟨_, _, e⟩ | ⟨_, _, e⟩ | ⟨_, p, e⟩ <;> rw [e]
    · exact .of_wiring hc (State.enterHold_wiring _ _ ch) (by simp) (by simp)
    · exact .of_same hc rfl rfl rfl
    · exact .of_same hc rfl rfl rfl

end

/-- Settles O54: every thing that a command can do keeps the wiring of a frozen channel. -/
theorem frozenWiringStays : Obligations.FrozenWiringStays := by
  intro i s t ch c notCold hc frozen e
  obtain ⟨⟨d, hd, same⟩, emitters, listeners, divisor⟩ := (exec_leaves notCold e).keepsWiring hc frozen
  simp only [Channel.wiring, Prod.mk.injEq] at same
  obtain ⟨pin, timebase, still, role⟩ := same
  exact ⟨⟨d, hd, still.trans frozen, pin, timebase, role⟩, emitters, listeners, divisor⟩

end Sys2Proof.Machine
end

section
/-! SUPPORT. What the entry into hold leaves (R132): the records, and the reports in their order. -/

namespace Sys2Proof.Machine

/-- A record as the entry into hold leaves it: an output channel in play is halted. -/
def heldRecord (c : Option Channel) : Option Channel :=
  c.map fun c => if c.isOutput && c.inPlay then c.halt .hold else c

theorem State.caughtByHold_eq (s : State) (ch : ChannelId) :
    s.caughtByHold ch = (s.channels[ch]).any fun c => c.isOutput && c.inPlay := by
  unfold State.caughtByHold State.outputChannel
  cases s.channels[ch] with
  | none => rfl
  | some c => cases h : c.role <;> simp [h, Channel.isOutput]

theorem State.heldChannels_getElem (s : State) (ch : ChannelId) : s.heldChannels[ch] = heldRecord s.channels[ch] := by
  rw [State.heldChannels, getElem_ofFn_fin]
  unfold heldRecord State.outputChannel
  cases hc : s.channels[ch] with
  | none => rfl
  | some c =>
    cases hr : c.role with
    | input i => simp [hr, Channel.isOutput]
    | output o => cases hp : c.inPlay <;> simp [hr, hp, Channel.isOutput, Channel.halt, Role.cut]

/-- One channel at the entry into hold. -/
theorem State.holdChannel_channels (s : State) (ch x : ChannelId) :
    (s.holdChannel ch).channels[x] = if ch = x then heldRecord s.channels[x] else s.channels[x] := by
  by_cases at_x : ch = x
  · subst at_x
    rw [if_pos rfl]
    unfold State.holdChannel heldRecord
    cases hc : s.channels[ch] with
    | none => exact hc
    | some c =>
      by_cases caught : c.isOutput ∧ c.inPlay
      · have both : (c.isOutput && c.inPlay) = true := by simpa using caught
        simp only [if_pos caught, State.report_channels, State.setChannel_getElem, Option.map_some, if_pos both, if_true]
      · have passed : ¬(c.isOutput && c.inPlay) = true := by simpa using caught
        simp only [if_neg caught, hc, Option.map_some, if_neg passed]
  · rw [if_neg at_x]
    unfold State.holdChannel
    cases s.channels[ch] with
    | none => rfl
    | some c =>
      by_cases caught : c.isOutput ∧ c.inPlay
      · simp only [if_pos caught, State.report_channels, State.setChannel_getElem, if_neg at_x]
      · simp only [if_neg caught]

theorem State.holdChannel_link (s : State) (ch : ChannelId) :
    (s.holdChannel ch).link = if s.caughtByHold ch then s.link.append (.state ch .haltedHold s.time) else s.link := by
  rw [State.caughtByHold_eq]
  unfold State.holdChannel
  cases s.channels[ch] with
  | none => rfl
  | some c => cases ho : c.isOutput <;> cases hp : c.inPlay <;> simp [ho, hp]

theorem State.holdChannel_frame (s : State) (ch : ChannelId) :
    s.holdChannel ch = { s with channels := (s.holdChannel ch).channels, link := (s.holdChannel ch).link } := by
  rcases s.holdChannel_cases ch with e | ⟨c, _, _, _, e⟩ <;> rw [e]
  rfl

/-- The halts of a list of channels leave all but the records and the link unit. -/
theorem State.foldl_holdChannel_frame (s : State) (ls : List ChannelId) :
    ls.foldl State.holdChannel s =
      { s with channels := (ls.foldl State.holdChannel s).channels, link := (ls.foldl State.holdChannel s).link } := by
  induction ls generalizing s with
  | nil => rfl
  | cons ch ls ih =>
    rw [List.foldl_cons, ih, State.holdChannel_frame]

/-- The channels of a list are halted where they are caught. -/
theorem State.foldl_holdChannel_channels {ls : List ChannelId} (once : ls.Nodup) (s : State) (x : ChannelId) :
    (ls.foldl State.holdChannel s).channels[x] = if x ∈ ls then heldRecord s.channels[x] else s.channels[x] := by
  induction ls generalizing s with
  | nil => simp
  | cons ch ls ih =>
    obtain ⟨fresh, once⟩ := List.nodup_cons.mp once
    rw [List.foldl_cons, ih once, State.holdChannel_channels]
    by_cases at_x : ch = x
    · subst at_x
      simp [fresh]
    · simp [at_x, Ne.symm at_x]

/-- The channels of a list report their halts in the order of the list. -/
theorem State.foldl_holdChannel_link {ls : List ChannelId} (once : ls.Nodup) (s : State) :
    (ls.foldl State.holdChannel s).link =
      ((ls.filter s.caughtByHold).map fun ch => ReportBody.state ch .haltedHold s.time).foldl Link.append s.link := by
  induction ls generalizing s with
  | nil => rfl
  | cons ch ls ih =>
    obtain ⟨fresh, once⟩ := List.nodup_cons.mp once
    have same : ls.filter (s.holdChannel ch).caughtByHold = ls.filter s.caughtByHold := by
      refine List.filter_congr fun x hx => ?_
      have other : ch ≠ x := fun e => fresh (e ▸ hx)
      rw [State.caughtByHold_eq, State.caughtByHold_eq, State.holdChannel_channels, if_neg other]
    have time : (s.holdChannel ch).time = s.time := by rw [State.holdChannel_frame]
    rw [List.foldl_cons, ih once, same, time, State.holdChannel_link]
    cases h : s.caughtByHold ch <;> simp [h]

/-- R132: the halts with their STATE reports in ascending channel number, then the HOLD report, and nothing else. -/
theorem State.enterHold_eq (s : State) (cause : HoldCause) :
    s.enterHold cause = { s with channels := s.heldChannels }.reportAll (s.holdReports cause) := by
  have every : ∀ x : ChannelId, x ∈ channelIds := by decide
  have channels : (channelIds.foldl State.holdChannel s).channels = s.heldChannels := by
    ext1 i hi
    have held := State.foldl_holdChannel_channels (ls := channelIds) (by decide) s ⟨i, hi⟩
    rw [if_pos (every _), ← State.heldChannels_getElem] at held
    exact held
  rw [State.enterHold, State.foldl_holdChannel_frame, channels, State.foldl_holdChannel_link (by decide) s]
  simp only [State.report, State.reportAll, State.holdReports, List.foldl_append, List.foldl_cons, List.foldl_nil]

/-- A record that the entry into hold leaves is that of no output channel in play. -/
theorem heldRecord_calm {c : Option Channel} {d : Channel} (h : heldRecord c = some d) (output : d.isOutput = true) :
    d.inPlay = false := by
  obtain ⟨c, _, rfl⟩ := Option.map_eq_some_iff.mp h
  by_cases caught : (c.isOutput && c.inPlay) = true
  · rw [if_pos caught]
    rfl
  · rw [if_neg caught] at output ⊢
    simpa [output] using caught

end Sys2Proof.Machine
end

section
/-! SUPPORT. What the effect of a request does to each channel's record, and to hold. -/

namespace Sys2Proof.Machine

/-- The record that a request may leave where `old` stood: one constructor for each way. -/
inductive State.Rewrites (s : State) : Option Channel → Channel → Prop where
  | kept (c : Channel) : State.Rewrites s (some c) c
  | bound (r : Role) (p : PinId) (tb : TimebaseId) (role : r = .output (OutputRole.fresh .low) ∨ r = .input InputRole.fresh) :
      State.Rewrites s none (Channel.bound r p tb s.time)
  | held (c : Channel) (output : c.isOutput = true) (inPlay : c.inPlay = true) : State.Rewrites s (some c) (c.halt .hold)
  | cleared (c : Channel) (frozen : c.frozen = true) : State.Rewrites s (some c) (c.cleared s.time)
  | frozen (c : Channel) : State.Rewrites s (some c) { c with frozen := true }
  | idleLevel (c : Channel) (o : OutputRole) (l : Level) (role : c.role = .output o) (resting : c.inPlay = false) :
      State.Rewrites s (some c) { c with role := .output { o with idleLevel := l } }
  | inputSettings (c : Channel) (i j : InputRole) (role : c.role = .input i) (resting : c.inPlay = false)
      (progress : j = { i with edgeSelect := j.edgeSelect, window := j.window, timeoutWindow := j.timeoutWindow,
                               timeoutAction := j.timeoutAction, mode := j.mode, limit := j.limit }) :
      State.Rewrites s (some c) { c with role := .input j }
  | stage (c : Channel) (o : OutputRole) (p : PatternId) (w : SwapPoint) (role : c.role = .output o)
      (running : c.activity = .running) : State.Rewrites s (some c) { c with role := .output (o.assignStaged p w) }
  | activate (c : Channel) (o : OutputRole) (p : PatternId) (role : c.role = .output o) (notRunning : c.activity ≠ .running) :
      State.Rewrites s (some c) { c with role := .output (o.assignActive p) }
  | unstage (c : Channel) (o : OutputRole) (g : Staged) (role : c.role = .output o) (staged : o.staged = some g) :
      State.Rewrites s (some c) { c with role := .output { o with staged := none } }
  | startOutput (f : StartFields) (c : Channel) (o : OutputRole) (role : c.role = .output o)
      (rearm : f.rearm = true → f.condition = .trigger) (notHeld : s.holdActive = false) (resting : c.inPlay = false)
      (pattern : o.active ≠ none ∨ o.staged ≠ none) : State.Rewrites s (some c) (c.started f (.output o.started))
  | startInput (f : StartFields) (c : Channel) (i : InputRole) (role : c.role = .input i)
      (rearm : f.rearm = true → f.condition = .trigger) (resting : c.inPlay = false) :
      State.Rewrites s (some c) (c.started f (.input i.cleared))
  | stop (c : Channel) (inPlay : c.inPlay = true) : State.Rewrites s (some c) (c.halt .request)

variable {s t : State} {x : ChannelId} {d : Channel}

theorem State.Rewrites.of_same (h : s.channels[x] = some d) : s.Rewrites s.channels[x] d := h ▸ .kept d

/-- One record is written, and the others stay. -/
theorem State.Rewrites.of_set {ch : ChannelId} {c d' : Channel} (hc : s.channels[ch] = some c) (w : s.Rewrites (some c) d')
    (h : (s.channels.set ch (some d'))[x] = some d) : s.Rewrites s.channels[x] d := by
  rw [getElem_set_fin] at h
  split at h
  case isTrue at_x =>
    cases h
    rw [← at_x, hc]
    exact w
  case isFalse => exact .of_same h

/-- The entry into hold halts output channels in play. -/
theorem State.Rewrites.of_heldRecord (h : heldRecord s.channels[x] = some d) : s.Rewrites s.channels[x] d := by
  obtain ⟨c, hc, rfl⟩ := Option.map_eq_some_iff.mp h
  rw [hc]
  split
  case isTrue caught =>
    obtain ⟨output, inPlay⟩ := Bool.and_eq_true_iff.mp caught
    exact .held c output inPlay
  case isFalse => exact .kept c

theorem State.Rewrites.of_warm (h : resetChannel s.time s.channels[x] = some d) : s.Rewrites s.channels[x] d := by
  unfold resetChannel at h
  split at h
  case h_1 => cases h
  case h_2 c hc =>
    split at h
    case isTrue frozen =>
      cases h
      rw [hc]
      exact .cleared c frozen
    case isFalse => cases h

theorem State.startOutput_channels (s : State) (f : StartFields) (c : Channel) (o : OutputRole) :
    (s.startOutput f c o).channels = s.channels.set f.ch (some (c.started f (.output o.started))) := by
  unfold State.startOutput
  split <;> rfl

theorem State.startOutput_hold (s : State) (f : StartFields) (c : Channel) (o : OutputRole) :
    (s.startOutput f c o).hold = s.hold := by
  unfold State.startOutput
  split <;> rfl

/-- Every record after the effect of a request is one that the request may leave there. -/
theorem State.Effect.rewrites (e : s.Effect t) (h : t.channels[x] = some d) : s.Rewrites s.channels[x] d := by
  cases e with
  | warm =>
    rw [State.warmReset_channels, getElem_ofFn_fin] at h
    exact .of_warm h
  | holdEntry =>
    rw [State.enterHold_eq] at h
    exact .of_heldRecord ((State.heldChannels_getElem ..).symm.trans h)
  | bind ch r p tb role isFree pinFree =>
    have h : (s.channels.set ch (some (Channel.bound r p tb s.time)))[x] = some d := h
    rw [getElem_set_fin] at h
    split at h
    case isTrue at_x =>
      cases h
      rw [← at_x, isFree]
      exact .bound r p tb role
    case isFalse => exact .of_same h
  | becomesFree ch c hc =>
    rw [State.freeChannel_channels, getElem_set_fin] at h
    split at h
    case isTrue => cases h
    case isFalse => exact .of_same h
  | freeze ch c hc => exact .of_set hc (.frozen c) h
  | clear ch c hc frozen => exact .of_set hc (.cleared c frozen) h
  | idleLevel ch c o l hc role unfrozen resting => exact .of_set hc (.idleLevel c o l role resting) h
  | inputSettings ch c i j hc role unfrozen resting progress => exact .of_set hc (.inputSettings c i j role resting progress) h
  | stage ch c o p w hc role defined running => exact .of_set hc (.stage c o p w role running) h
  | activate ch c o p hc role defined notRunning => exact .of_set hc (.activate c o p role notRunning) h
  | unstage ch c o g hc role staged => exact .of_set hc (.unstage c o g role staged) h
  | startOutput f c o hc role rearm notHeld resting pattern =>
    rw [State.startOutput_channels] at h
    exact .of_set hc (.startOutput f c o role rearm notHeld resting pattern) h
  | startInput f c i hc role rearm resting => exact .of_set hc (.startInput f c i role rearm resting) h
  | stop ch c hc inPlay => exact .of_set hc (.stop c inPlay) h
  | _ => exact .of_same h

end Sys2Proof.Machine
end

section
/-! SUPPORT. Pins, timebases and hold stay sound (R23, R33, R132, R133). -/

namespace Sys2Proof.Machine

variable {s t : State}

/-! ### The pin table and the records -/

theorem State.pinsSound_iff : s.PinsSound ↔
    ∀ (p : PinId) (ch : ChannelId), s.pinTable[p] = some ch ↔ s.channels[ch].map Channel.pin = some p := by
  simp only [State.PinsSound, Option.map_eq_some_iff]

/-- Where the table and every record's pin stay, they stay in agreement. -/
theorem State.PinsSound.of_pins (h : s.PinsSound) (pinTable : t.pinTable = s.pinTable)
    (pins : ∀ x : ChannelId, t.channels[x].map Channel.pin = s.channels[x].map Channel.pin) : t.PinsSound := by
  rw [State.pinsSound_iff] at h ⊢
  intro p ch
  rw [pinTable, pins, h]

theorem State.PinsSound.of_same (h : s.PinsSound) (pinTable : t.pinTable = s.pinTable) (channels : t.channels = s.channels) :
    t.PinsSound := h.of_pins pinTable fun x => by rw [channels]

/-- A new record with the pin of the old one. -/
theorem State.PinsSound.of_set (h : s.PinsSound) {x : ChannelId} {d d' : Channel} (hd : s.channels[x] = some d)
    (channels : t.channels = s.channels.set x (some d')) (pin : d'.pin = d.pin) (pinTable : t.pinTable = s.pinTable) :
    t.PinsSound := by
  refine h.of_pins pinTable fun y => ?_
  rw [channels, getElem_set_fin]
  split
  case isTrue at_y => rw [← at_y, hd, Option.map_some, Option.map_some, pin]
  case isFalse => rfl

/-- Where every record keeps its wiring, it keeps its pin. -/
theorem State.PinsSound.of_wiring (h : s.PinsSound) (pinTable : t.pinTable = s.pinTable)
    (wiring : ∀ x : ChannelId, t.channels[x].map Channel.wiring = s.channels[x].map Channel.wiring) : t.PinsSound := by
  refine h.of_pins pinTable fun x => ?_
  have e := congrArg (Option.map Prod.fst) (wiring x)
  rw [Option.map_map, Option.map_map] at e
  exact e

/-- R35: a free pin and a FREE channel are bound to each other. -/
theorem State.PinsSound.bound (h : s.PinsSound) {ch : ChannelId} {p : PinId} {d : Channel} (isFree : s.channels[ch] = none)
    (pinFree : s.pinTable[p] = none) (pin : d.pin = p) :
    State.PinsSound { s with pinTable := s.pinTable.set p (some ch), channels := s.channels.set ch (some d) } := by
  rw [State.pinsSound_iff] at h ⊢
  intro q x
  rw [getElem_set_fin, getElem_set_fin]
  by_cases at_q : p = q <;> by_cases at_x : ch = x
  · subst at_q at_x
    simp [pin]
  · subst at_q
    have unheld : s.channels[x].map Channel.pin ≠ some p := fun held => by
      rw [← h p x, pinFree] at held
      cases held
    simp only [if_true, if_neg at_x]
    exact iff_of_false (fun e => at_x (Option.some.inj e)) unheld
  · subst at_x
    have unheld : s.pinTable[q] ≠ some ch := fun held => by
      rw [h q ch, isFree] at held
      cases held
    simp only [if_neg at_q, if_true, Option.map_some, pin]
    exact iff_of_false unheld fun e => at_q (Option.some.inj e)
  · simp only [if_neg at_q, if_neg at_x]
    exact h q x

/-- R36: a channel that becomes FREE gives its pin up. -/
theorem State.PinsSound.freed (h : s.PinsSound) {ch : ChannelId} {c : Channel} (hc : s.channels[ch] = some c) :
    (s.freeChannel ch c).PinsSound := by
  rw [State.pinsSound_iff] at h ⊢
  intro q x
  rw [State.freeChannel_pinTable, State.freeChannel_channels, getElem_set_fin, getElem_set_fin]
  have own : s.pinTable[c.pin] = some ch := (h c.pin ch).mpr (by rw [hc]; rfl)
  by_cases at_q : c.pin = q <;> by_cases at_x : ch = x
  · simp [at_q, at_x]
  · subst at_q
    have unheld : s.channels[x].map Channel.pin ≠ some c.pin := fun held => by
      rw [← h c.pin x, own] at held
      exact at_x (Option.some.inj held)
    simp only [if_true, if_neg at_x]
    exact iff_of_false nofun unheld
  · subst at_x
    have unheld : s.pinTable[q] ≠ some ch := fun held => by
      rw [h q ch, hc] at held
      exact at_q (Option.some.inj held)
    simp only [if_neg at_q, if_true, Option.map_none]
    exact iff_of_false unheld nofun
  · simp only [if_neg at_q, if_neg at_x]
    exact h q x

/-- R51: the warm reset keeps the pins of the frozen channels, in table and record. -/
theorem State.PinsSound.warm (h : s.PinsSound) : s.warmReset.PinsSound := by
  rw [State.pinsSound_iff] at h ⊢
  intro p ch
  rw [State.warmReset_pinTable, State.warmReset_channels, getElem_ofFn_fin, getElem_ofFn_fin]
  have held : s.resetPin p = some ch ↔ s.pinTable[p] = some ch ∧ s.isFrozen ch = true := by
    unfold State.resetPin
    cases s.pinTable[p] with
    | none => simp
    | some x => by_cases f : s.isFrozen x = true <;> simp [f] <;> rintro rfl <;> simpa using f
  rw [held, h p ch]
  unfold resetChannel State.isFrozen
  cases s.channels[ch] with
  | none => simp
  | some c => cases f : c.frozen <;> simp [f]

theorem State.Effect.pinsSound (h : s.PinsSound) (e : s.Effect t) : t.PinsSound := by
  cases e with
  | warm => exact h.warm
  | bind ch r p tb role isFree pinFree => exact h.bound isFree pinFree rfl
  | becomesFree ch c hc => exact h.freed hc
  | holdEntry => exact h.of_wiring (by simp) (State.enterHold_wiring _ _)
  | freeze ch c hc => exact h.of_set hc rfl rfl rfl
  | clear ch c hc => exact h.of_set hc rfl rfl rfl
  | idleLevel ch c o l hc => exact h.of_set hc rfl rfl rfl
  | inputSettings ch c i j hc => exact h.of_set hc rfl rfl rfl
  | stage ch c o p w hc => exact h.of_set hc rfl rfl rfl
  | activate ch c o p hc => exact h.of_set hc rfl rfl rfl
  | unstage ch c o g hc => exact h.of_set hc rfl rfl rfl
  | startOutput f c o hc =>
    unfold State.startOutput
    split <;> exact h.of_set hc rfl rfl rfl
  | startInput f c i hc => exact h.of_set hc rfl rfl rfl
  | stop ch c hc => exact h.of_set hc rfl rfl rfl
  | _ => exact h.of_same rfl rfl

theorem State.PinsSound.changePinHold (h : s.PinsSound) : s.changePinHold.PinsSound := by
  rcases s.changePinHold_cases with ⟨_, _, e⟩ | ⟨_, _, e⟩ | ⟨_, p, e⟩ <;> rw [e]
  · exact h.of_wiring (by simp) (State.enterHold_wiring _ _)
  · exact h.of_same rfl rfl
  · exact h.of_same rfl rfl

theorem State.pinsSound_kept : KeptByBlocks State.PinsSound where
  same _ _ e h := h.of_same e.pinTable e.channels
  effect _ _ h e := e.pinsSound h
  tick s ch y h := h.of_wiring (State.Plays.tickChannel s ch y).pinTable (State.Plays.tickChannel s ch y).wiring
  pinHold _ h := h.changePinHold
  runCount _ _ h := h.of_same rfl rfl
  clock _ h := h.of_same rfl rfl
  taken _ _ h := h.of_same rfl rfl
  cold _ p ch := by simp [State.cold]

/-! ### Divisors and phases -/

/-- R23: a divisor of 1 to 65536, and a phase below it. -/
def Timebase.Sound (b : Timebase) : Prop := 1 ≤ b.divisor ∧ b.divisor ≤ 65536 ∧ b.phase < b.divisor

theorem Timebase.Sound.restart (b : Timebase) {d : Nat} (lo : 1 ≤ d) (hi : d ≤ 65536) : (b.restart d).Sound := ⟨lo, hi, lo⟩

theorem Timebase.Sound.advance {b : Timebase} (h : b.Sound) : b.advance.Sound := by
  obtain ⟨lo, hi, phase⟩ := h
  unfold Timebase.advance
  split
  case isTrue => exact ⟨lo, hi, lo⟩
  case isFalse below => exact ⟨lo, hi, Nat.lt_of_not_le below⟩

theorem Timebase.Sound.cold (b : TimebaseId) : (Timebase.cold b).Sound := by
  revert b
  unfold Timebase.Sound
  decide

theorem State.TimebasesSound.of_same (h : s.TimebasesSound) (timebases : t.timebases = s.timebases) : t.TimebasesSound := by
  unfold State.TimebasesSound
  rw [timebases]
  exact h

theorem State.TimebasesSound.of_ofFn {f : TimebaseId → Timebase} (h : ∀ b, (f b).Sound) (timebases : t.timebases = Vector.ofFn f) :
    t.TimebasesSound := by
  intro b
  rw [timebases, getElem_ofFn_fin]
  exact h b

theorem State.TimebasesSound.of_set (h : s.TimebasesSound) {b : TimebaseId} {q : Timebase} (sound : q.Sound)
    (timebases : t.timebases = s.timebases.set b q) : t.TimebasesSound := by
  intro x
  rw [timebases, getElem_set_fin]
  split
  · exact sound
  · exact h x

theorem State.TimebasesSound.warm (h : s.TimebasesSound) : s.warmReset.TimebasesSound := by
  refine .of_ofFn (fun b => ?_) s.warmReset_timebases
  unfold State.resetTimebase
  split
  · exact h b
  · obtain ⟨lo, hi, _⟩ := Timebase.Sound.cold b
    exact .restart _ lo hi

theorem State.Effect.timebasesSound (h : s.TimebasesSound) (e : s.Effect t) : t.TimebasesSound := by
  cases e with
  | warm => exact h.warm
  | timebase b d lo hi => exact h.of_set (.restart _ lo hi) rfl
  | holdEntry => exact h.of_same (by simp)
  | startOutput =>
    unfold State.startOutput
    split <;> exact h.of_same rfl
  | _ => exact h.of_same rfl

theorem State.timebasesSound_kept : KeptByBlocks State.TimebasesSound where
  same _ _ e h := h.of_same e.timebases
  effect _ _ h e := e.timebasesSound h
  tick s ch y h := h.of_same (State.Plays.tickChannel s ch y).timebases
  pinHold s h := by
    rcases s.changePinHold_cases with ⟨_, _, e⟩ | ⟨_, _, e⟩ | ⟨_, p, e⟩ <;> rw [e] <;> exact h.of_same (by simp)
  runCount _ _ h := h.of_same rfl
  clock s h := .of_ofFn (fun b => .advance (h b)) s.advanceClock_timebases
  taken s b h := h.of_set (q := s.timebases[b].take) (h b) rfl
  cold _ := .of_ofFn Timebase.Sound.cold rfl

/-! ### Output channels under hold -/

theorem State.holdActive_congr (hold : t.hold = s.hold) : t.holdActive = s.holdActive := by
  simp only [State.holdActive, hold]

/-- Hold inactive asks nothing. -/
theorem State.HeldOut.of_inactive (h : s.holdActive = false) : s.HeldOut := fun active => by
  rw [h] at active
  cases active

theorem State.HeldOut.of_same (h : s.HeldOut) (hold : t.hold = s.hold) (channels : t.channels = s.channels) : t.HeldOut := by
  unfold State.HeldOut
  rw [State.holdActive_congr hold, channels]
  exact h

theorem State.HeldOut.of_heldChannels (channels : t.channels = s.heldChannels) : t.HeldOut := by
  intro _ x c hc output
  rw [channels, State.heldChannels_getElem] at hc
  exact heldRecord_calm hc output

theorem State.HeldOut.enterHold (s : State) (cause : HoldCause) : (s.enterHold cause).HeldOut :=
  .of_heldChannels (s := s) (by rw [State.enterHold_eq]; rfl)

theorem State.HeldOut.warm (s : State) : s.warmReset.HeldOut := by
  intro _ x c hc _
  rw [State.warmReset_channels, getElem_ofFn_fin] at hc
  unfold resetChannel at hc
  split at hc
  case h_1 => cases hc
  case h_2 =>
    split at hc <;> cases hc
    rfl

/-- The flag goes: hold that is still active was so before. -/
theorem State.HeldOut.withoutFlag (h : s.HeldOut) : (s.withHoldFlag false).HeldOut := by
  intro active x c hc output
  have asserted : s.hold.pinHold = .asserted := of_decide_eq_true active
  exact h (by simp [State.holdActive, asserted]) x c hc output

/-- A record that the effect of a request leaves in play as an output channel was in play so before, or hold is inactive. -/
theorem State.Rewrites.in_play {old : Option Channel} {d : Channel} (w : s.Rewrites old d) (output : d.isOutput = true)
    (inPlay : d.inPlay = true) :
    s.holdActive = false ∨ ∃ c, old = some c ∧ c.isOutput = true ∧ c.inPlay = true := by
  cases w with
  | kept => exact .inr ⟨_, rfl, output, inPlay⟩
  | bound => cases inPlay
  | held => cases inPlay
  | cleared => cases inPlay
  | frozen c => exact .inr ⟨c, rfl, output, inPlay⟩
  | idleLevel c o l role resting => exact absurd (resting.symm.trans inPlay) nofun
  | inputSettings => cases output
  | stage c o p w role => exact .inr ⟨c, rfl, by rw [Channel.isOutput, role], inPlay⟩
  | activate c o p role => exact .inr ⟨c, rfl, by rw [Channel.isOutput, role], inPlay⟩
  | unstage c o g role => exact .inr ⟨c, rfl, by rw [Channel.isOutput, role], inPlay⟩
  | startOutput f c o role rearm notHeld => exact .inl notHeld
  | startInput => cases output
  | stop => cases inPlay

/-- Where hold was active before, no record comes into play. -/
theorem State.Effect.heldOut_of_active (h : s.HeldOut) (e : s.Effect t) (active : s.holdActive = true) : t.HeldOut := by
  intro _ x d hd output
  cases inPlay : d.inPlay with
  | false => rfl
  | true =>
    rcases (e.rewrites hd).in_play output inPlay with inactive | ⟨c, hc, wasOutput, wasInPlay⟩
    · exact absurd (active.symm.trans inactive) nofun
    · exact absurd (wasInPlay.symm.trans (h active x c hc wasOutput)) nofun

theorem State.Effect.heldOut (h : s.HeldOut) (e : s.Effect t) : t.HeldOut := by
  cases active : s.holdActive with
  | true => exact e.heldOut_of_active h active
  | false =>
    cases e with
    | warm => exact .warm s
    | holdOn now => exact absurd (active.symm.trans now) nofun
    | holdEntry => exact .enterHold _ _
    | holdExit => exact h.withoutFlag.of_same rfl rfl
    | release => exact h.withoutFlag
    | startOutput f c o => exact .of_inactive ((State.holdActive_congr (s.startOutput_hold f c o)).trans active)
    | _ => exact .of_inactive active

theorem State.HeldOut.changePinHold (h : s.HeldOut) : s.changePinHold.HeldOut := by
  rcases s.changePinHold_cases with ⟨_, _, e⟩ | ⟨_, flag, e⟩ | ⟨flag, p, e⟩ <;> rw [e]
  · exact .enterHold _ _
  · exact .of_inactive (by simp [State.holdActive, flag])
  · exact fun _ => h (by simp [State.holdActive, flag])

/-! ### A tick under hold -/

/-- A delivery to an output channel at rest, while hold is active, finds nothing to do (R133). -/
theorem State.deliver_at_rest {ch : ChannelId} {c : Channel} (hc : s.channels[ch] = some c) (active : s.holdActive = true)
    (output : c.isOutput = true) (resting : c.inPlay = false) (d : Delivery) : s.deliver ch d = ⟨s, false⟩ := by
  have notRunning : c.activity ≠ .running := fun running => by simp [Channel.inPlay, running] at resting
  unfold State.deliver
  split
  · simp only [State.deliverStart, hc, output, active, and_self, if_true]
  · simp only [State.deliverStop, hc, resting, Bool.false_eq_true, if_false]
  · unfold State.deliverRestart
    split
    · rfl
    · rename_i e
      cases hc.symm.trans (State.outputChannel_eq_some.mp e).1
      rw [if_neg notRunning]
  · unfold State.deliverSwap
    split
    · rfl
    · rename_i e
      cases hc.symm.trans (State.outputChannel_eq_some.mp e).1
      rw [if_neg fun running => notRunning running.1]
  · unfold State.deliverStamp State.inputChannel
    rw [hc]
    cases hr : c.role with
    | input i => simp [Channel.isOutput, hr] at output
    | output o => simp only [hr]

/-- The channel is an output channel at rest while hold is active. -/
def State.RestsHeld (s : State) (ch : ChannelId) : Prop :=
  s.holdActive = true ∧ ∃ c, s.channels[ch] = some c ∧ c.isOutput = true ∧ c.inPlay = false

theorem Staging.applyLine_restsHeld {w : Staging} {ch : ChannelId} (h : w.state.RestsHeld ch) (l : LineId) :
    (w.applyLine ch l).state.RestsHeld ch := by
  obtain ⟨active, c, hc, output, resting⟩ := h
  cases hd : c.due l w.state.time with
  | none =>
    rw [Staging.applyLine_of_not_due hc hd]
    exact ⟨active, c, hc, output, resting⟩
  | some d =>
    have hu : (w.state.setChannel ch (some (c.undeliver l))).channels[ch] = some (c.undeliver l) :=
      (State.setChannel_getElem ..).trans (if_pos rfl)
    rw [Staging.applyLine_of_due hc hd, State.deliver_at_rest hu active output resting]
    exact ⟨active, _, hu, output, resting⟩

theorem State.tickChannel_restsHeld {ch : ChannelId} (h : s.RestsHeld ch) (y : Sample) : (s.tickChannel ch y).RestsHeld ch := by
  have stage : (s.deliveryStage ch).state.RestsHeld ch :=
    foldl_keeps (P := fun w : Staging => w.state.RestsHeld ch) (fun _ l h => Staging.applyLine_restsHeld h l) lines h
  obtain ⟨active, c, hc, output, resting⟩ := stage
  have notWaiting : c.activity ≠ .waiting := fun e => by simp [Channel.inPlay, e] at resting
  have notRunning : c.activity ≠ .running := fun e => by simp [Channel.inPlay, e] at resting
  have quiet : s.tickChannel ch y = (s.deliveryStage ch).state := by
    unfold State.tickChannel State.ownWork
    rw [hc]
    cases ha : c.activity <;> simp_all
  rw [quiet]
  exact ⟨active, c, hc, output, resting⟩

/-- A tick keeps the role of every channel. -/
theorem State.Plays.isOutput {ch : ChannelId} (h : State.Plays ch s t) (x : ChannelId) :
    t.channels[x].map Channel.isOutput = s.channels[x].map Channel.isOutput := by
  have roles (c : Channel) : c.isOutput = (match c.wiring.2.2.2 with | .output _ => true | .input _ => false) := by
    cases hr : c.role <;> simp [Channel.isOutput, Channel.wiring, Role.cleared, hr]
  have e := congrArg (Option.map fun w : PinId × TimebaseId × Bool × Role =>
    match w.2.2.2 with | .output _ => true | .input _ => false) (h.wiring x)
  rw [Option.map_map, Option.map_map] at e
  rw [show Channel.isOutput = _ from funext roles]
  exact e

theorem State.HeldOut.tickChannel (h : s.HeldOut) (ch : ChannelId) (y : Sample) : (s.tickChannel ch y).HeldOut := by
  have plays := State.Plays.tickChannel s ch y
  cases active : s.holdActive with
  | false => exact .of_inactive ((State.holdActive_congr plays.hold).trans active)
  | true =>
    intro _ x c hc output
    have before : s.channels[x].map Channel.isOutput = some true := by rw [← plays.isOutput x, hc, Option.map_some, output]
    obtain ⟨d, hd, wasOutput⟩ := Option.map_eq_some_iff.mp before
    have rested := h active x d hd wasOutput
    by_cases at_x : x = ch
    · subst at_x
      obtain ⟨_, e, he, _, resting⟩ := State.tickChannel_restsHeld ⟨active, d, hd, wasOutput, rested⟩ y
      cases hc.symm.trans he
      exact resting
    · obtain ⟨ds, e⟩ := plays.others x d at_x hd
      cases hc.symm.trans e
      exact rested

theorem State.heldOut_kept : KeptByBlocks State.HeldOut where
  same _ _ e h := h.of_same e.hold e.channels
  effect _ _ h e := e.heldOut h
  tick _ ch y h := h.tickChannel ch y
  pinHold _ h := h.changePinHold
  runCount _ _ h := h
  clock _ h := h
  taken _ _ h := h
  cold _ _ x c hc := by simp [State.cold] at hc

/-- Settles O56: each of the three parts is kept by every step. -/
theorem pinsTimebasesAndHoldStaySound : Obligations.PinsTimebasesAndHoldStaySound :=
  fun _ _ pins timebases hold e =>
    ⟨State.pinsSound_kept.step pins e, State.timebasesSound_kept.step timebases e, State.heldOut_kept.step hold e⟩

end Sys2Proof.Machine
end

section
/-! SUPPORT. What each operation of a tick does, one equation for each of its cases, at a state whose channel has a given record. -/

namespace Sys2Proof.Machine

section
variable {s : State} {ch : ChannelId} {c : Channel} {o : OutputRole} {i : InputRole} {p : Pattern}

/-! ### Output channels -/

/-- The role with segment 0 of a pattern begun, where there is a pattern. -/
def OutputRole.beginFirst (o : OutputRole) (q : Option Pattern) : OutputRole := q.elim o fun q => o.begin q 0

theorem OutputRole.beginFirst_of_some {q : Pattern} {g : Segment} (h : q.segments[0]? = some g) :
    o.beginFirst (some q) = { o with segIndex := 0, ticksLeft := some g.duration } := o.begin_of_some h

theorem OutputRole.swapped_eq (o : OutputRole) (t : PatternStore) (g : Staged) :
    o.swapped t g =
      ({ o with active := some g.pattern, staged := none, segIndex := 0, reps := 0 } : OutputRole).beginFirst
        (t.rows[g.pattern]).pattern := by
  unfold OutputRole.swapped OutputRole.beginFirst
  cases (t.rows[g.pattern]).pattern <;> rfl

theorem State.enterRunning_of_output (hc : s.channels[ch] = some c) (hr : c.role = .output o) :
    s.enterRunning ch =
      (s.setChannel ch (some { c with
        activity := .running, role := .output (o.beginFirst (s.activePattern o)) })).raise ch .begin := by
  simp only [State.enterRunning, hc, hr, OutputRole.beginFirst]
  cases s.activePattern o <;> rfl

theorem State.enterRunning_of_input (hc : s.channels[ch] = some c) (hr : c.role = .input i) :
    s.enterRunning ch = (s.setChannel ch (some { c with activity := .running })).raise ch .begin := by
  simp only [State.enterRunning, hc, hr]

theorem State.swap_of_staged {g : Staged} (hc : s.channels[ch] = some c) (hr : c.role = .output o) (hg : o.staged = some g)
    (cause : SwapCause) :
    s.swap ch cause =
      ((State.setChannel { s with store := s.store.releaseField o.active } ch
        (some { c with role := .output (o.swapped s.store g) })).raise ch .swap).report
          (.swap ch o.active g.pattern cause s.time) := by
  simp only [State.swap, State.outputChannel_eq_some.mpr ⟨hc, hr⟩, hg]

theorem State.swap_of_unstaged (hc : s.channels[ch] = some c) (hr : c.role = .output o) (hg : o.staged = none)
    (cause : SwapCause) : s.swap ch cause = s := by
  simp only [State.swap, State.outputChannel_eq_some.mpr ⟨hc, hr⟩, hg]

theorem State.updateOutput_eq (hc : s.channels[ch] = some c) (hr : c.role = .output o) (f : OutputRole → OutputRole) :
    (s.updateChannel ch fun c => c.updateOutput f) = s.setChannel ch (some { c with role := .output (f o) }) := by
  rw [State.updateChannel_eq_of_some hc]
  simp only [Channel.updateOutput, hr]

theorem State.beginSegment_eq (hc : s.channels[ch] = some c) (hr : c.role = .output o) (k reps : Nat) :
    s.beginSegment ch p k reps = s.setChannel ch (some { c with role := .output { o.begin p k with reps := reps } }) :=
  State.updateOutput_eq hc hr _

theorem State.countSegment_of_more {n : Nat} (hc : s.channels[ch] = some c) (hr : c.role = .output o)
    (hl : o.ticksLeft = some n) (more : 1 < n) :
    s.countSegment ch = s.setChannel ch (some { c with role := .output { o with ticksLeft := some (n - 1) } }) := by
  simp only [State.countSegment, State.outputChannel_eq_some.mpr ⟨hc, hr⟩, hl, if_neg (Nat.not_le.mpr more)]
  exact State.updateOutput_eq hc hr _

theorem State.restart_of_active (hc : s.channels[ch] = some c) (hr : c.role = .output o) (hp : s.activePattern o = some p) :
    s.restart ch = s.beginSegment ch p 0 0 := by
  simp only [State.restart, State.outputChannel_eq_some.mpr ⟨hc, hr⟩, hp]

/-- R59: the end of play under rearm. -/
theorem State.endPlay_of_rearm (hv : (s.raise ch .done).channels[ch] = some c) (hr : c.role = .output o)
    (rearm : c.rearm = true) : s.endPlay ch p = (s.raise ch .done).setChannel ch (some (c.rearmOutput o)) := by
  simp only [State.endPlay, State.outputChannel_eq_some.mpr ⟨hv, hr⟩, rearm, if_true]

/-- R58: the end of play in DONE. -/
theorem State.endPlay_of_finish (hv : (s.raise ch .done).channels[ch] = some c) (hr : c.role = .output o)
    (rearm : c.rearm = false) :
    s.endPlay ch p =
      ((s.raise ch .done).setChannel ch (some (c.finish o p))).report (.state ch .doneFinished s.time) := by
  simp only [State.endPlay, State.outputChannel_eq_some.mpr ⟨hv, hr⟩, rearm, Bool.false_eq_true, if_false]

/-! ### Input channels -/

theorem State.updateInput_eq (hc : s.channels[ch] = some c) (hr : c.role = .input i) (f : InputRole → InputRole) :
    (s.updateChannel ch fun c => c.updateInput f) = s.setChannel ch (some { c with role := .input (f i) }) := by
  rw [State.updateChannel_eq_of_some hc]
  simp only [Channel.updateInput, hr]

theorem State.capture_eq (hc : s.channels[ch] = some c) (hr : c.role = .input i) (k : CaptureKind) (time : Time) :
    s.capture ch k time =
      (s.setChannel ch (some { c with role := .input (i.captured time) })).report
        (.capture ch k (countUp i.captures) time (i.interval time)) := by
  simp only [State.capture, State.inputChannel_eq_some.mpr ⟨hc, hr⟩]

theorem State.startWindow_eq (hc : s.channels[ch] = some c) (hr : c.role = .input i) :
    s.startWindow ch = s.setChannel ch (some { c with role := .input { i with timeoutLeft := i.windowStart } }) :=
  State.updateInput_eq hc hr _

/-- R99: the captures made are not the limit. -/
theorem State.testLimit_of_below (hc : s.channels[ch] = some c) (hr : c.role = .input i)
    (below : i.limit = 0 ∨ i.captures ≠ i.limit) : s.testLimit ch = s := by
  have below : ¬(i.limit ≠ 0 ∧ i.captures = i.limit) := by tauto
  simp only [State.testLimit, State.inputChannel_eq_some.mpr ⟨hc, hr⟩, if_neg below]

/-- R99: the limit is reached under rearm. -/
theorem State.testLimit_of_rearm {d : Channel} {j : InputRole} (hc : s.channels[ch] = some c) (hr : c.role = .input i)
    (reached : i.limit ≠ 0 ∧ i.captures = i.limit) (hv : (s.raise ch .limit).channels[ch] = some d) (hd : d.role = .input j)
    (rearm : d.rearm = true) : s.testLimit ch = (s.raise ch .limit).setChannel ch (some (d.rearmInput j)) := by
  simp only [State.testLimit, State.inputChannel_eq_some.mpr ⟨hc, hr⟩, if_pos reached,
    State.inputChannel_eq_some.mpr ⟨hv, hd⟩, rearm, if_true]

/-- R99: the limit is reached, and play ends in DONE. -/
theorem State.testLimit_of_reached {d : Channel} {j : InputRole} (hc : s.channels[ch] = some c) (hr : c.role = .input i)
    (reached : i.limit ≠ 0 ∧ i.captures = i.limit) (hv : (s.raise ch .limit).channels[ch] = some d) (hd : d.role = .input j)
    (rearm : d.rearm = false) :
    s.testLimit ch = ((s.raise ch .limit).setChannel ch (some d.limitReached)).report (.state ch .doneLimit s.time) := by
  simp only [State.testLimit, State.inputChannel_eq_some.mpr ⟨hc, hr⟩, if_pos reached,
    State.inputChannel_eq_some.mpr ⟨hv, hd⟩, rearm, Bool.false_eq_true, if_false]

/-- The record with an edge accepted. -/
def InputRole.edged (i : InputRole) (level : Sample) : InputRole := { i with accepted := some level, qual := none }

/-- R95: an edge that does not match the edge select changes the accepted level alone. -/
theorem State.acceptEdge_of_other {level : Sample} (hc : s.channels[ch] = some c) (hr : c.role = .input i) (start : Time)
    (other : i.edgeSelect.admits level = false) :
    s.acceptEdge ch level start = s.setChannel ch (some { c with role := .input (i.edged level) }) := by
  simp only [State.acceptEdge, State.inputChannel_eq_some.mpr ⟨hc, hr⟩, other, Bool.false_eq_true, if_false, InputRole.edged]

/-- R95, R96: a matching edge is captured; EDGE, the window and the limit test follow. -/
theorem State.acceptEdge_of_match {level : Sample} (hc : s.channels[ch] = some c) (hr : c.role = .input i) (start : Time)
    (matching : i.edgeSelect.admits level = true) :
    s.acceptEdge ch level start =
      (((((s.setChannel ch (some { c with role := .input (i.edged level) })).capture ch (edgeKind level) start).raise ch
        .edge).startWindow ch).testLimit ch) := by
  simp only [State.acceptEdge, State.inputChannel_eq_some.mpr ⟨hc, hr⟩, matching, if_true, InputRole.edged]

/-- R92: the first sample of a run. -/
theorem State.firstSample_eq (hc : s.channels[ch] = some c) (hr : c.role = .input i) (y : Sample) :
    s.firstSample ch y =
      s.setChannel ch (some { c with role := .input { i with accepted := some y, timeoutLeft := i.windowStart } }) := by
  have hd : (s.setChannel ch (some { c with role := .input { i with accepted := some y } })).channels[ch] =
      some { c with role := .input { i with accepted := some y } } := (State.setChannel_getElem ..).trans (if_pos rfl)
  rw [State.firstSample, State.updateInput_eq hc hr, State.startWindow_eq hd rfl]
  simp only [State.setChannel, Vector.set_set]
  rfl

theorem State.countWindow_of_none (hc : s.channels[ch] = some c) (hr : c.role = .input i) (hl : i.timeoutLeft = none) :
    s.countWindow ch = s := by
  simp only [State.countWindow, State.inputChannel_eq_some.mpr ⟨hc, hr⟩, hl]

theorem State.countWindow_of_more {n : Nat} (hc : s.channels[ch] = some c) (hr : c.role = .input i)
    (hl : i.timeoutLeft = some n) (more : 1 < n) :
    s.countWindow ch = s.setChannel ch (some { c with role := .input { i with timeoutLeft := some (n - 1) } }) := by
  simp only [State.countWindow, State.inputChannel_eq_some.mpr ⟨hc, hr⟩, hl, if_neg (Nat.not_le.mpr more)]
  exact State.updateInput_eq hc hr _

theorem State.countWindow_of_last {n : Nat} (hc : s.channels[ch] = some c) (hr : c.role = .input i)
    (hl : i.timeoutLeft = some n) (last : n ≤ 1) : s.countWindow ch = s.expire ch := by
  simp only [State.countWindow, State.inputChannel_eq_some.mpr ⟨hc, hr⟩, hl, if_pos last]

/-- R101: what both timeout actions leave before they differ: the TIMEOUT report, and then the event. -/
def State.timedOut (s : State) (ch : ChannelId) (i : InputRole) : State :=
  (s.report (.capture ch .timeout i.captures s.time (i.interval s.time))).raise ch .timeout

theorem State.expire_of_report (hc : s.channels[ch] = some c) (hr : c.role = .input i) (action : i.timeoutAction = .report) :
    s.expire ch = (s.timedOut ch i).startWindow ch := by
  simp only [State.expire, State.inputChannel_eq_some.mpr ⟨hc, hr⟩, action, State.timedOut]

theorem State.expire_of_halt {d : Channel} (hc : s.channels[ch] = some c) (hr : c.role = .input i)
    (action : i.timeoutAction = .halt) (hv : (s.timedOut ch i).channels[ch] = some d) :
    s.expire ch =
      ((s.timedOut ch i).setChannel ch (some (d.halt .timeout))).report (.state ch .haltedTimeout s.time) := by
  simp only [State.expire, State.inputChannel_eq_some.mpr ⟨hc, hr⟩, action]
  rw [← State.updateChannel_eq_of_some hv (Channel.halt · .timeout)]
  rfl

theorem State.inputWork_of_first (hc : s.channels[ch] = some c) (hr : c.role = .input i) (hl : i.accepted = none) (y : Sample) :
    s.inputWork ch y = s.firstSample ch y := by
  simp only [State.inputWork, State.inputChannel_eq_some.mpr ⟨hc, hr⟩, hl]

/-! Past the first tick the outcome of the sample chooses (R93, R94). -/

theorem State.inputWork_of_steady {a y : Sample} (hc : s.channels[ch] = some c) (hr : c.role = .input i)
    (hl : i.accepted = some a) (outcome : i.sampleOutcome a y s.time = .steady) : s.inputWork ch y = s.countWindow ch := by
  simp only [State.inputWork, State.inputChannel_eq_some.mpr ⟨hc, hr⟩, hl, outcome]

theorem State.inputWork_of_qualify {a y : Sample} {q : Option Qualification} (hc : s.channels[ch] = some c)
    (hr : c.role = .input i) (hl : i.accepted = some a) (outcome : i.sampleOutcome a y s.time = .qualify q) :
    s.inputWork ch y = (s.setChannel ch (some { c with role := .input { i with qual := q } })).countWindow ch := by
  rw [← State.updateInput_eq hc hr fun j => { j with qual := q }]
  simp only [State.inputWork, State.inputChannel_eq_some.mpr ⟨hc, hr⟩, hl, outcome]

theorem State.inputWork_of_accept {a y level : Sample} {start : Time} (hc : s.channels[ch] = some c)
    (hr : c.role = .input i) (hl : i.accepted = some a) (outcome : i.sampleOutcome a y s.time = .accept level start) :
    s.inputWork ch y =
      if i.edgeSelect.admits level then s.acceptEdge ch level start
      else (s.acceptEdge ch level start).countWindow ch := by
  simp only [State.inputWork, State.inputChannel_eq_some.mpr ⟨hc, hr⟩, hl, outcome]

/-! ### The own work -/

theorem State.ownWork_of_running_input {y : Sample} {began : Bool} (hc : s.channels[ch] = some c) (ha : c.activity = .running)
    (hr : c.role = .input i) : s.ownWork ch y began = s.inputWork ch y := by
  have input : c.isOutput = false := by rw [Channel.isOutput, hr]
  simp only [State.ownWork, hc, ha, input, Bool.false_eq_true, if_false]

theorem State.ownWork_of_begun {y : Sample} (hc : s.channels[ch] = some c) (ha : c.activity = .running)
    (hr : c.role = .output o) : s.ownWork ch y true = s := by
  have output : c.isOutput = true := by rw [Channel.isOutput, hr]
  simp only [State.ownWork, hc, ha, output, if_true]

/-- R48: outside play, and in WAITING with the condition not met, there is no own work. -/
theorem State.ownWork_of_rest {y : Sample} {began : Bool} (hc : s.channels[ch] = some c) (ha : c.activity ≠ .running)
    (unmet : c.activity = .waiting → c.startCondition.met s.time = false) : s.ownWork ch y began = s := by
  simp only [State.ownWork, hc]
  cases e : c.activity with
  | waiting => simp only [unmet e, Bool.false_eq_true, if_false]
  | running => exact absurd e ha
  | idle => rfl
  | done => rfl
  | halted => rfl

/-- R43: a met condition enters RUNNING, and an input channel takes its sample at the same tick. -/
theorem State.ownWork_of_met {y : Sample} {began : Bool} (hc : s.channels[ch] = some c) (ha : c.activity = .waiting)
    (met : c.startCondition.met s.time = true) :
    s.ownWork ch y began = if c.isOutput then s.enterRunning ch else (s.enterRunning ch).inputWork ch y := by
  simp only [State.ownWork, hc, ha, met, if_true]

end

end Sys2Proof.Machine
end

section
/-! SUPPORT. How the record of a channel moves through a tick of it: the small moves, each of which leaves a whole record, and that a tick
is a sequence of them. -/

namespace Sys2Proof.Machine

/-- The patterns that the rows hold. No tick changes them. -/
def PatternStore.patterns (t : PatternStore) (p : PatternId) : Option Pattern := (t.rows[p]).pattern

/-- The pattern of the active field, where `f` gives the patterns of the rows. -/
def OutputRole.activeIn (o : OutputRole) (f : PatternId → Option Pattern) : Option Pattern := o.active.bind f

theorem State.activePattern_eq (s : State) (o : OutputRole) : s.activePattern o = o.activeIn s.store.patterns := by
  unfold State.activePattern OutputRole.activeIn
  cases o.active <;> rfl

theorem OutputRole.staged_of_stagedAt {o : OutputRole} {w : SwapPoint} (h : o.stagedAt w = true) :
    ∃ g, o.staged = some g ∧ g.point = w := by
  unfold OutputRole.stagedAt at h
  split at h
  case h_1 => cases h
  case h_2 g hg => exact ⟨g, hg, of_decide_eq_true h⟩

/-- The role after a swap, where `f` gives the patterns of the rows (R79). -/
def OutputRole.swappedIn (o : OutputRole) (f : PatternId → Option Pattern) (g : Staged) : OutputRole :=
  ({ o with active := some g.pattern, staged := none, segIndex := 0, reps := 0 } : OutputRole).beginFirst (f g.pattern)

/-- One move of a channel's record within a tick, where `f` gives the patterns of the rows, and `b` says whether RUNNING may be
entered. -/
inductive Channel.Moves (b : Bool) (f : PatternId → Option Pattern) : Channel → Channel → Prop where
  | deliveries (c : Channel) (ds : Vector (Option Delivery) 8) : Channel.Moves b f c { c with deliveries := ds }
  | enterInput (enters : b = true) (c : Channel) (i : InputRole) (waiting : c.activity = .waiting) (role : c.role = .input i) :
      Channel.Moves b f c { c with activity := .running }
  | enterOutput (enters : b = true) (c : Channel) (o : OutputRole) (waiting : c.activity = .waiting)
      (role : c.role = .output o) :
      Channel.Moves b f c { c with activity := .running, role := .output (o.beginFirst (o.activeIn f)) }
  | halt (c : Channel) (r : HaltReason) (inPlay : c.inPlay = true) (reason : r ≠ .none) : Channel.Moves b f c (c.halt r)
  | countSegment (c : Channel) (o : OutputRole) (n : Nat) (running : c.activity = .running) (role : c.role = .output o)
      (left : o.ticksLeft = some n) (more : 1 < n) :
      Channel.Moves b f c { c with role := .output { o with ticksLeft := some (n - 1) } }
  | restart (c : Channel) (o : OutputRole) (q : Pattern) (running : c.activity = .running) (role : c.role = .output o)
      (active : o.activeIn f = some q) : Channel.Moves b f c { c with role := .output { o.begin q 0 with reps := 0 } }
  | next (c : Channel) (o : OutputRole) (q : Pattern) (running : c.activity = .running) (role : c.role = .output o)
      (active : o.activeIn f = some q) (more : o.segIndex + 1 < q.segments.length) :
      Channel.Moves b f c { c with role := .output { o.begin q (o.segIndex + 1) with reps := o.reps } }
  | again (c : Channel) (o : OutputRole) (q : Pattern) (running : c.activity = .running) (role : c.role = .output o)
      (active : o.activeIn f = some q) (more : q.repeatCount = 0 ∨ countUp o.reps < q.repeatCount) :
      Channel.Moves b f c { c with role := .output { o.begin q 0 with reps := countUp o.reps } }
  | swap (c : Channel) (o : OutputRole) (g : Staged) (running : c.activity = .running) (role : c.role = .output o)
      (staged : o.staged = some g) : Channel.Moves b f c { c with role := .output (o.swappedIn f g) }
  | finish (c : Channel) (o : OutputRole) (q : Pattern) (running : c.activity = .running) (role : c.role = .output o) :
      Channel.Moves b f c (c.finish { o with reps := countUp o.reps } q)
  | rearmOutput (c : Channel) (o : OutputRole) (running : c.activity = .running) (role : c.role = .output o) :
      Channel.Moves b f c (c.rearmOutput { o with reps := countUp o.reps })
  | firstSample (c : Channel) (i : InputRole) (y : Sample) (running : c.activity = .running) (role : c.role = .input i)
      (first : i.accepted = none) :
      Channel.Moves b f c { c with role := .input { i with accepted := some y, timeoutLeft := i.windowStart } }
  | qualify (c : Channel) (i : InputRole) (a y : Sample) (now : Time) (q : Option Qualification)
      (running : c.activity = .running) (role : c.role = .input i) (accepted : i.accepted = some a)
      (outcome : i.sampleOutcome a y now = .qualify q) : Channel.Moves b f c { c with role := .input { i with qual := q } }
  | edge (c : Channel) (i : InputRole) (a level : Sample) (running : c.activity = .running) (role : c.role = .input i)
      (accepted : i.accepted = some a) : Channel.Moves b f c { c with role := .input (i.edged level) }
  | countWindow (c : Channel) (i : InputRole) (n : Nat) (running : c.activity = .running) (role : c.role = .input i)
      (left : i.timeoutLeft = some n) (more : 1 < n) :
      Channel.Moves b f c { c with role := .input { i with timeoutLeft := some (n - 1) } }
  | startWindow (c : Channel) (i : InputRole) (a : Sample) (running : c.activity = .running) (role : c.role = .input i)
      (accepted : i.accepted = some a) : Channel.Moves b f c { c with role := .input { i with timeoutLeft := i.windowStart } }
  | capture (c : Channel) (i : InputRole) (time : Time) (running : c.activity = .running) (role : c.role = .input i)
      (below : i.limit = 0 ∨ countUp i.captures ≠ i.limit) : Channel.Moves b f c { c with role := .input (i.captured time) }
  | limit (c : Channel) (i : InputRole) (time : Time) (running : c.activity = .running) (role : c.role = .input i) :
      Channel.Moves b f c ({ c with role := .input (i.captured time) } : Channel).limitReached
  | rearmInput (c : Channel) (i : InputRole) (time : Time) (running : c.activity = .running) (role : c.role = .input i) :
      Channel.Moves b f c (c.rearmInput (i.captured time))

/-- Moves of a record, one after the other. -/
abbrev Channel.Travels (b : Bool) (f : PatternId → Option Pattern) : Channel → Channel → Prop :=
  Relation.ReflTransGen (Channel.Moves b f)

/-- The record of the channel at `t` is one that `c` comes to by moves, and the rows hold the patterns `f`. -/
def State.Reaches (b : Bool) (f : PatternId → Option Pattern) (ch : ChannelId) (c : Channel) (t : State) : Prop :=
  t.store.patterns = f ∧ ∃ d, t.channels[ch] = some d ∧ Channel.Travels b f c d

namespace State.Reaches

variable {b : Bool} {f : PatternId → Option Pattern} {ch : ChannelId} {c d : Channel} {s t : State}

theorem of_record (hf : t.store.patterns = f) (hd : t.channels[ch] = some d) (m : Channel.Travels b f c d) : Reaches b f ch c t :=
  ⟨hf, d, hd, m⟩

theorem refl (hf : t.store.patterns = f) (hc : t.channels[ch] = some c) : Reaches b f ch c t := .of_record hf hc .refl

/-- Moves before a state are moves before what it reaches. -/
theorem after (m : Channel.Travels b f c d) (h : Reaches b f ch d t) : Reaches b f ch c t := by
  obtain ⟨hf, e, he, n⟩ := h
  exact ⟨hf, e, he, m.trans n⟩

theorem report (h : Reaches b f ch c t) (r : ReportBody) : Reaches b f ch c (t.report r) := h

theorem set (hf : t.store.patterns = f) (m : Channel.Travels b f c d) : Reaches b f ch c (t.setChannel ch (some d)) :=
  .of_record hf ((State.setChannel_getElem ..).trans (if_pos rfl)) m

theorem raise (h : Reaches b f ch c t) (x : ChannelId) (k : EventKind) : Reaches b f ch c (t.raise x k) := by
  obtain ⟨hf, d, hd, m⟩ := h
  obtain ⟨ds, raised⟩ := State.raise_some x k hd
  exact ⟨(congrArg _ (t.raise_store x k)).trans hf, _, raised, m.tail (.deliveries d ds)⟩

/-- What holds of every record that `c` may come to holds of the one that is reached. -/
theorem bind (h : Reaches b f ch c s) (g : ∀ d, s.store.patterns = f → s.channels[ch] = some d → Channel.Travels b f c d →
    Reaches b f ch d t) : Reaches b f ch c t := by
  obtain ⟨hf, d, hd, m⟩ := h
  exact (g d hf hd m).after m

/-! ### Output channels -/

section
variable {o : OutputRole} {i : InputRole} {q : Pattern}

theorem enterRunning (hf : s.store.patterns = f) (hc : s.channels[ch] = some c) (waiting : c.activity = .waiting) :
    Reaches true f ch c (s.enterRunning ch) := by
  cases hr : c.role with
  | output o =>
    rw [State.enterRunning_of_output hc hr, State.activePattern_eq, hf]
    exact (set hf (.single (.enterOutput rfl c o waiting hr))).raise _ _
  | input i =>
    rw [State.enterRunning_of_input hc hr]
    exact (set hf (.single (.enterInput rfl c i waiting hr))).raise _ _

/-- A swap, from a state whose record differs from `c` in deliveries and repetitions alone. -/
theorem swap {ds : Vector (Option Delivery) 8} {reps : Nat} (hf : s.store.patterns = f) (running : c.activity = .running)
    (hr : c.role = .output o) (hc : s.channels[ch] = some { c with deliveries := ds, role := .output { o with reps := reps } })
    {g : Staged} (hg : o.staged = some g) (cause : SwapCause) : Reaches b f ch c (s.swap ch cause) := by
  rw [State.swap_of_staged hc rfl hg]
  refine ((set ?_ ?_).raise _ _).report _
  · rw [← hf]
    exact funext fun p => s.store.releaseField_pattern o.active p p.isLt
  · have moved := Channel.Moves.swap (b := b) (f := f) { c with deliveries := ds } o g running hr hg
    rw [OutputRole.swapped_eq, show (s.store.rows[g.pattern]).pattern = f g.pattern from congrFun hf _]
    exact (Relation.ReflTransGen.single (.deliveries c ds)).tail moved

theorem beginSegment {ds : Vector (Option Delivery) 8} {k reps reps' : Nat} (hf : s.store.patterns = f)
    (hc : s.channels[ch] = some { c with deliveries := ds, role := .output { o with reps := reps } })
    (move : ∀ ds, Channel.Moves b f { c with deliveries := ds }
      { c with deliveries := ds, role := .output { o.begin q k with reps := reps' } }) :
    Reaches b f ch c (s.beginSegment ch q k reps') := by
  rw [State.beginSegment_eq hc rfl]
  refine set hf ((Relation.ReflTransGen.single (.deliveries c ds)).tail ?_)
  have same : ({ ({ o with reps := reps } : OutputRole).begin q k with reps := reps' } : OutputRole) =
      { o.begin q k with reps := reps' } := by
    unfold OutputRole.begin
    cases q.segments[k]? <;> rfl
  simp only [same]
  exact move ds

theorem endPlay {ds : Vector (Option Delivery) 8} (hf : s.store.patterns = f) (running : c.activity = .running)
    (hr : c.role = .output o)
    (hc : s.channels[ch] = some { c with deliveries := ds, role := .output { o with reps := countUp o.reps } }) :
    Reaches b f ch c (s.endPlay ch q) := by
  have hf' : (s.raise ch .done).store.patterns = f := by rw [State.raise_store, hf]
  obtain ⟨es, raised⟩ := State.raise_some ch .done hc
  have placed : Channel.Travels b f c { c with deliveries := es } := .single (.deliveries c es)
  cases rearm : c.rearm with
  | true =>
    rw [State.endPlay_of_rearm raised rfl rearm]
    exact set hf' (placed.tail (.rearmOutput { c with deliveries := es } o running hr))
  | false =>
    rw [State.endPlay_of_finish raised rfl rearm]
    exact (set hf' (placed.tail (.finish { c with deliveries := es } o q running hr))).report _

theorem endRepetition {ds : Vector (Option Delivery) 8} (hf : s.store.patterns = f) (running : c.activity = .running)
    (hr : c.role = .output o) (active : o.activeIn f = some q) (hc : s.channels[ch] = some { c with deliveries := ds }) :
    Reaches b f ch c (s.endRepetition ch o q) := by
  have counted := State.updateOutput_eq hc hr fun x => { x with reps := countUp o.reps }
  obtain ⟨es, raised⟩ := State.raise_some (s := s.setChannel ch (some { c with
    deliveries := ds, role := .output { o with reps := countUp o.reps } })) ch .cycle
    ((State.setChannel_getElem ..).trans (if_pos rfl))
  have hf' : (State.raise (s.setChannel ch (some { c with
    deliveries := ds, role := .output { o with reps := countUp o.reps } })) ch .cycle).store.patterns = f := by
    rw [State.raise_store]
    exact hf
  unfold State.endRepetition
  dsimp only
  rw [counted]
  split
  case isTrue staged =>
    obtain ⟨g, hg, _⟩ := OutputRole.staged_of_stagedAt staged
    exact swap hf' running hr raised hg _
  case isFalse =>
    split
    case isTrue more =>
      exact beginSegment hf' raised fun ds => .again { c with deliveries := ds } o q running hr active more
    case isFalse => exact endPlay hf' running hr raised

/-- What follows MARK, which changes deliveries alone. -/
theorem afterMark {ds : Vector (Option Delivery) 8} (hf : s.store.patterns = f) (running : c.activity = .running)
    (hr : c.role = .output o) (active : o.activeIn f = some q) (hc : s.channels[ch] = some { c with deliveries := ds }) :
    Reaches b f ch c (s.afterMark ch o q) := by
  have hc' : s.channels[ch] = some { c with deliveries := ds, role := .output { o with reps := o.reps } } := by rw [hc, ← hr]
  unfold State.afterMark
  dsimp only
  split
  case isTrue staged =>
    obtain ⟨g, hg, _⟩ := OutputRole.staged_of_stagedAt staged
    split
    case isTrue =>
      obtain ⟨es, raised⟩ := State.raise_some ch .cycle hc'
      exact swap (by rw [State.raise_store, hf]) running hr raised hg _
    case isFalse => exact swap hf running hr hc' hg _
  case isFalse =>
    split
    case isTrue => exact endRepetition hf running hr active hc
    case isFalse more =>
      exact beginSegment hf hc' fun ds =>
        .next { c with deliveries := ds } o q running hr active (Nat.not_le.mp more)

theorem endSegment (hf : s.store.patterns = f) (hc : s.channels[ch] = some c) (running : c.activity = .running)
    (hr : c.role = .output o) : Reaches b f ch c (s.endSegment ch) := by
  unfold State.endSegment
  simp only [State.outputChannel_eq_some.mpr ⟨hc, hr⟩]
  split
  case h_1 => exact refl hf hc
  case h_2 q active =>
    rw [State.activePattern_eq, hf] at active
    split
    case h_1 => exact refl hf hc
    case h_2 g _ =>
      obtain ⟨ds, marked, store, _⟩ := State.raise_if_keeps (ch := ch) g.mark .mark hc
      exact afterMark (by rw [store, hf]) running hr active marked

theorem countSegment (hf : s.store.patterns = f) (hc : s.channels[ch] = some c) (running : c.activity = .running)
    (hr : c.role = .output o) : Reaches b f ch c (s.countSegment ch) := by
  cases left : o.ticksLeft with
  | none =>
    simp only [State.countSegment, State.outputChannel_eq_some.mpr ⟨hc, hr⟩, left]
    exact refl hf hc
  | some n =>
    by_cases more : 1 < n
    · rw [State.countSegment_of_more hc hr left more]
      exact set hf (.single (.countSegment c o n running hr left more))
    · simp only [State.countSegment, State.outputChannel_eq_some.mpr ⟨hc, hr⟩, left, if_pos (Nat.not_lt.mp more)]
      exact endSegment hf hc running hr

theorem restart (hf : s.store.patterns = f) (hc : s.channels[ch] = some c) (running : c.activity = .running)
    (hr : c.role = .output o) : Reaches b f ch c (s.restart ch) := by
  cases active : s.activePattern o with
  | none =>
    simp only [State.restart, State.outputChannel_eq_some.mpr ⟨hc, hr⟩, active]
    exact refl hf hc
  | some q =>
    rw [State.restart_of_active hc hr active, State.beginSegment_eq hc hr]
    rw [State.activePattern_eq, hf] at active
    exact set hf (.single (.restart c o q running hr active))

/-! ### Input channels -/

theorem testLimit {time : Time} {ds : Vector (Option Delivery) 8} {left : Option Nat} (hf : s.store.patterns = f)
    (running : c.activity = .running) (hr : c.role = .input i)
    (hc : s.channels[ch] = some { c with deliveries := ds, role := .input { i.captured time with timeoutLeft := left } })
    (below : i.limit = 0 ∨ countUp i.captures ≠ i.limit → Channel.Travels b f c
      { c with deliveries := ds, role := .input { i.captured time with timeoutLeft := left } }) :
    Reaches b f ch c (s.testLimit ch) := by
  by_cases reached : i.limit ≠ 0 ∧ countUp i.captures = i.limit
  · have hf' : (s.raise ch .limit).store.patterns = f := by rw [State.raise_store, hf]
    obtain ⟨es, raised⟩ := State.raise_some ch .limit hc
    have placed : Channel.Travels b f c { c with deliveries := es } := .single (.deliveries c es)
    cases rearm : c.rearm with
    | true =>
      rw [State.testLimit_of_rearm hc rfl reached raised rfl rearm]
      exact set hf' (placed.tail (.rearmInput { c with deliveries := es } i time running hr))
    | false =>
      rw [State.testLimit_of_reached hc rfl reached raised rfl rearm]
      exact (set hf' (placed.tail (.limit { c with deliveries := es } i time running hr))).report _
  · have short : i.limit = 0 ∨ countUp i.captures ≠ i.limit := by tauto
    rw [State.testLimit_of_below hc rfl short]
    exact .of_record hf hc (below short)

theorem stamp (hf : s.store.patterns = f) (hc : s.channels[ch] = some c) (running : c.activity = .running)
    (hr : c.role = .input i) (d : Delivery) : Reaches b f ch c (s.stamp ch d) := by
  rw [State.stamp, State.capture_eq hc hr]
  exact testLimit (left := i.timeoutLeft) (time := d.firstTime) (ds := c.deliveries) hf running hr
    ((State.setChannel_getElem ..).trans (if_pos rfl)) fun below => .single (.capture c i d.firstTime running hr below)

theorem startWindow {a : Sample} (hf : s.store.patterns = f) (hc : s.channels[ch] = some c) (running : c.activity = .running)
    (hr : c.role = .input i) (accepted : i.accepted = some a) : Reaches b f ch c (s.startWindow ch) := by
  rw [State.startWindow_eq hc hr]
  exact set hf (.single (.startWindow c i a running hr accepted))

theorem acceptEdge {a : Sample} (hf : s.store.patterns = f) (hc : s.channels[ch] = some c) (running : c.activity = .running)
    (hr : c.role = .input i) (accepted : i.accepted = some a) (level : Sample) (start : Time) :
    Reaches b f ch c (s.acceptEdge ch level start) := by
  have edged : Channel.Travels b f c { c with role := .input (i.edged level) } :=
    .single (.edge c i a level running hr accepted)
  cases matching : i.edgeSelect.admits level with
  | false =>
    rw [State.acceptEdge_of_other hc hr start matching]
    exact set hf edged
  | true =>
    have written : (s.setChannel ch (some { c with role := .input (i.edged level) })).channels[ch] =
        some { c with role := .input (i.edged level) } := (State.setChannel_getElem ..).trans (if_pos rfl)
    rw [State.acceptEdge_of_match hc hr start matching, State.capture_eq written rfl]
    refine after edged ?_
    obtain ⟨ds, raised⟩ := State.raise_some (s := State.report (State.setChannel _ ch (some { c with
      role := .input ((i.edged level).captured start) }))
        (.capture ch (edgeKind level) (countUp (i.edged level).captures) start ((i.edged level).interval start))) ch .edge
      ((State.setChannel_getElem ..).trans (if_pos rfl))
    rw [State.startWindow_eq raised rfl]
    refine testLimit (i := i.edged level) (time := start) (left := i.windowStart) (ds := ds) ?_ running rfl
      ((State.setChannel_getElem ..).trans (if_pos rfl)) fun below => ?_
    · rw [State.setChannel_store, State.raise_store]
      exact hf
    · have captured := Channel.Moves.capture (b := b) (f := f) { c with role := .input (i.edged level) } (i.edged level)
        start running rfl below
      have placed := Channel.Moves.deliveries (b := b) (f := f) { c with role := .input ((i.edged level).captured start) } ds
      have started := Channel.Moves.startWindow (b := b) (f := f)
        { c with deliveries := ds, role := .input ((i.edged level).captured start) } _ level running rfl rfl
      exact ((Relation.ReflTransGen.single captured).tail placed).tail started

theorem expire {a : Sample} (hf : s.store.patterns = f) (hc : s.channels[ch] = some c) (running : c.activity = .running)
    (hr : c.role = .input i) (accepted : i.accepted = some a) : Reaches b f ch c (s.expire ch) := by
  obtain ⟨ds, raised⟩ := State.raise_some (s := s.report (.capture ch .timeout i.captures s.time (i.interval s.time)))
    ch .timeout hc
  have hf' : (s.timedOut ch i).store.patterns = f := by
    rw [State.timedOut, State.raise_store]
    exact hf
  have placed : Channel.Travels b f c { c with deliveries := ds } := .single (.deliveries c ds)
  cases action : i.timeoutAction with
  | report =>
    rw [State.expire_of_report hc hr action]
    exact after placed (startWindow hf' raised running hr accepted)
  | halt =>
    have inPlay : c.inPlay = true := decide_eq_true (.inr running)
    rw [State.expire_of_halt hc hr action raised]
    exact (set hf' (placed.tail (.halt { c with deliveries := ds } .timeout inPlay nofun))).report _

theorem countWindow {a : Sample} (hf : s.store.patterns = f) (hc : s.channels[ch] = some c) (running : c.activity = .running)
    (hr : c.role = .input i) (accepted : i.accepted = some a) : Reaches b f ch c (s.countWindow ch) := by
  cases left : i.timeoutLeft with
  | none =>
    rw [State.countWindow_of_none hc hr left]
    exact refl hf hc
  | some n =>
    by_cases more : 1 < n
    · rw [State.countWindow_of_more hc hr left more]
      exact set hf (.single (.countWindow c i n running hr left more))
    · rw [State.countWindow_of_last hc hr left (Nat.not_lt.mp more)]
      exact expire hf hc running hr accepted

theorem inputWork (hf : s.store.patterns = f) (hc : s.channels[ch] = some c) (running : c.activity = .running)
    (hr : c.role = .input i) (y : Sample) : Reaches b f ch c (s.inputWork ch y) := by
  cases accepted : i.accepted with
  | none =>
    rw [State.inputWork_of_first hc hr accepted, State.firstSample_eq hc hr]
    exact set hf (.single (.firstSample c i y running hr accepted))
  | some a =>
    cases outcome : i.sampleOutcome a y s.time with
    | steady =>
      rw [State.inputWork_of_steady hc hr accepted outcome]
      exact countWindow hf hc running hr accepted
    | qualify q =>
      rw [State.inputWork_of_qualify hc hr accepted outcome]
      refine after (.single (.qualify c i a y s.time q running hr accepted outcome)) ?_
      exact countWindow hf ((State.setChannel_getElem ..).trans (if_pos rfl)) running rfl accepted
    | accept level start =>
      rw [State.inputWork_of_accept hc hr accepted outcome]
      split
      case isTrue => exact acceptEdge hf hc running hr accepted level start
      case isFalse other =>
        rw [State.acceptEdge_of_other hc hr start (by simpa using other)]
        refine after (.single (.edge c i a level running hr accepted)) ?_
        exact countWindow (i := i.edged level) hf ((State.setChannel_getElem ..).trans (if_pos rfl)) running rfl rfl

end

/-! ### The stages of a tick -/

theorem deliver (hf : s.store.patterns = f) (hc : s.channels[ch] = some c) (d : Delivery) :
    Reaches true f ch c (s.deliver ch d).state := by
  unfold State.deliver
  split
  · simp only [State.deliverStart, hc]
    split
    case isTrue => exact refl hf hc
    case isFalse =>
      split
      case isTrue waiting => exact enterRunning hf hc waiting.1
      case isFalse => exact refl hf hc
  · simp only [State.deliverStop, hc]
    split
    case isTrue inPlay => exact (set hf (.single (.halt c .linked inPlay nofun))).report _
    case isFalse => exact refl hf hc
  · unfold State.deliverRestart
    split
    case h_1 => exact refl hf hc
    case h_2 c' o e =>
      obtain ⟨hc', hr⟩ := State.outputChannel_eq_some.mp e
      cases hc.symm.trans hc'
      split
      case isTrue running => exact restart hf hc running hr
      case isFalse => exact refl hf hc
  · unfold State.deliverSwap
    split
    case h_1 => exact refl hf hc
    case h_2 c' o e =>
      obtain ⟨hc', hr⟩ := State.outputChannel_eq_some.mp e
      cases hc.symm.trans hc'
      split
      case isTrue swaps =>
        obtain ⟨g, hg⟩ := Option.ne_none_iff_exists'.mp swaps.2
        exact swap (ds := c.deliveries) (reps := o.reps) hf swaps.1 hr (by rw [hc, ← hr]) hg _
      case isFalse => exact refl hf hc
  · unfold State.deliverStamp
    split
    case h_1 => exact refl hf hc
    case h_2 c' i e =>
      obtain ⟨hc', hr⟩ := State.inputChannel_eq_some.mp e
      cases hc.symm.trans hc'
      split
      case isTrue running => exact stamp hf hc running hr d
      case isFalse => exact refl hf hc

theorem applyLine {w : Staging} (hf : w.state.store.patterns = f) (hc : w.state.channels[ch] = some c) (l : LineId) :
    Reaches true f ch c (w.applyLine ch l).state := by
  cases due : c.due l w.state.time with
  | none =>
    rw [Staging.applyLine_of_not_due hc due]
    exact refl hf hc
  | some d =>
    rw [Staging.applyLine_of_due hc due]
    have removed : (w.state.setChannel ch (some (c.undeliver l))).channels[ch] = some (c.undeliver l) :=
      (State.setChannel_getElem ..).trans (if_pos rfl)
    exact after (.single (.deliveries c (c.deliveries.set l none)))
      (deliver (s := w.state.setChannel ch (some (c.undeliver l))) hf removed d)

theorem deliveryStage (hf : s.store.patterns = f) (hc : s.channels[ch] = some c) :
    Reaches true f ch c (s.deliveryStage ch).state :=
  foldl_keeps (P := fun w : Staging => Reaches true f ch c w.state)
    (fun _ l h => h.bind fun _ hf hd _ => applyLine hf hd l) lines (refl hf hc)

theorem ownWork (hf : s.store.patterns = f) (hc : s.channels[ch] = some c) (y : Sample) (began : Bool) :
    Reaches true f ch c (s.ownWork ch y began) := by
  by_cases running : c.activity = .running
  · cases hr : c.role with
    | output o =>
      cases began with
      | true =>
        rw [State.ownWork_of_begun hc running hr]
        exact refl hf hc
      | false =>
        rw [State.ownWork_of_running_output hc running hr]
        exact countSegment hf hc running hr
    | input i =>
      rw [State.ownWork_of_running_input hc running hr]
      exact inputWork hf hc running hr y
  · by_cases met : c.activity = .waiting ∧ c.startCondition.met s.time = true
    · obtain ⟨waiting, met⟩ := met
      rw [State.ownWork_of_met hc waiting met]
      have entered := enterRunning hf hc waiting
      split
      case isTrue => exact entered
      case isFalse input =>
        cases hr : c.role with
        | output o => exact absurd (by rw [Channel.isOutput, hr]) input
        | input i =>
          obtain ⟨ds, raised⟩ := State.raise_some (s := s.setChannel ch (some { c with activity := .running })) ch .begin
            ((State.setChannel_getElem ..).trans (if_pos rfl))
          rw [State.enterRunning_of_input hc hr] at entered ⊢
          obtain ⟨hf', _⟩ := entered
          refine after ((Relation.ReflTransGen.single (.enterInput rfl c i waiting hr)).tail (.deliveries _ ds)) ?_
          exact inputWork (c := { c with activity := .running, deliveries := ds }) hf' raised rfl hr y
    · rw [State.ownWork_of_rest hc running fun waiting => by simpa using fun h => met ⟨waiting, h⟩]
      exact refl hf hc

/-- A tick of a channel is a sequence of moves of its record. -/
theorem tickChannel (hc : s.channels[ch] = some c) (y : Sample) : Reaches true s.store.patterns ch c (s.tickChannel ch y) :=
  (deliveryStage rfl hc).bind fun _ hf hd _ => ownWork hf hd y _

end State.Reaches

end Sys2Proof.Machine
end

section
/-! SUPPORT. Every input channel's progress stays sound (R90, R93 to R102). Between its entry into RUNNING and its first sample a channel
has no accepted level, so the rest of the invariant is shown of every move of a tick, and the accepted level of its end. -/

namespace Sys2Proof.Machine

/-- An input channel's progress fields in an activity, but for the accepted level in RUNNING. -/
structure InputRole.Progress (a : Activity) (i : InputRole) : Prop where
  captures : i.captures ≤ Config.countMax
  below : a = .waiting ∨ a = .running → i.limit ≠ 0 → i.captures < i.limit
  waiting : a = .waiting → i.accepted = none
  window : i.timeoutLeft ≠ none ↔ (a = .running ∧ i.accepted ≠ none) ∧ i.timeoutWindow ≠ 0
  left : ∀ n, i.timeoutLeft = some n → 1 ≤ n ∧ n ≤ i.timeoutWindow
  qual : ∀ q, i.qual = some q → a = .running ∧ q.count < i.window ∧ ∃ l, i.accepted = some l ∧ l ≠ q.candidate

/-- The progress of the record, where it is an input channel's. -/
def Channel.Progress (c : Channel) : Prop := ∀ i, c.role = .input i → i.Progress c.activity

/-- An input channel in RUNNING has taken its first sample. -/
def Channel.Sampled (c : Channel) : Prop := ∀ i, c.role = .input i → c.activity = .running → i.accepted ≠ none

theorem Channel.inputSound_iff (c : Channel) : c.InputSound ↔ c.Progress ∧ c.Sampled := by
  unfold Channel.InputSound Channel.Progress Channel.Sampled
  cases c.role with
  | output o => exact iff_of_true trivial ⟨fun _ hj => (nomatch hj), fun _ hj => (nomatch hj)⟩
  | input i =>
    constructor
    · rintro ⟨captures, below, waiting, sampled, window, left, qual⟩
      refine ⟨fun j hj => ?_, fun j hj => by cases hj; exact sampled⟩
      cases hj
      refine ⟨captures, fun inPlay => below (decide_eq_true inPlay), waiting, ?_, left, fun q hq => ?_⟩
      · exact window.trans ⟨fun ⟨run, w⟩ => ⟨⟨run, sampled run⟩, w⟩, fun ⟨⟨run, _⟩, w⟩ => ⟨run, w⟩⟩
      · obtain ⟨run, count, against⟩ := qual q hq
        obtain ⟨l, hl⟩ := Option.ne_none_iff_exists'.mp (sampled run)
        exact ⟨run, count, l, hl, fun e => against (by rw [hl, e])⟩
    · rintro ⟨progress, sampled⟩
      obtain ⟨captures, below, waiting, window, left, qual⟩ := progress i rfl
      refine ⟨captures, fun inPlay => below (of_decide_eq_true inPlay), waiting, sampled i rfl, ?_, left, fun q hq => ?_⟩
      · exact window.trans ⟨fun ⟨⟨run, _⟩, w⟩ => ⟨run, w⟩, fun ⟨run, w⟩ => ⟨⟨run, sampled i rfl run⟩, w⟩⟩
      · obtain ⟨run, count, l, hl, ne⟩ := qual q hq
        exact ⟨run, count, fun e => ne (Option.some.inj (hl.symm.trans e))⟩

/-! ### Records written whole -/

/-- R90: with nothing counted or captured, progress is sound outside RUNNING. -/
theorem InputRole.Progress.of_clear {a : Activity} {i : InputRole} (ha : a ≠ .running) (captures : i.captures = 0)
    (accepted : i.accepted = none) (qual : i.qual = none) (left : i.timeoutLeft = none) : i.Progress a where
  captures := by rw [captures]; exact Nat.zero_le _
  below _ limit := by rw [captures]; exact Nat.pos_of_ne_zero limit
  waiting _ := accepted
  window := by rw [left]; exact iff_of_false (fun h => h rfl) fun h => ha h.1.1
  left n hn := by rw [left] at hn; cases hn
  qual q hq := by rw [qual] at hq; cases hq

/-- R34, R90: play is cut outside RUNNING and WAITING; the captures stay. -/
theorem InputRole.Progress.of_cut {a a' : Activity} {i : InputRole} (h : i.Progress a) (ha : a' ≠ .running) (hw : a' ≠ .waiting) :
    InputRole.Progress a' { i with qual := none, timeoutLeft := none } where
  captures := h.captures
  below inPlay := by rcases inPlay with e | e <;> contradiction
  waiting e := absurd e hw
  window := iff_of_false (fun h => h rfl) fun h => ha h.1.1
  left _ hn := by cases hn
  qual _ hq := by cases hq

theorem Channel.Sampled.of_not_running {c : Channel} (h : c.activity ≠ .running) : c.Sampled := fun _ _ run => absurd run h

theorem Channel.Progress.of_output {d : Channel} {o : OutputRole} (h : d.role = .output o) : d.Progress := by
  intro j hj
  rw [h] at hj
  cases hj

theorem Channel.Sampled.of_output {d : Channel} {o : OutputRole} (h : d.role = .output o) : d.Sampled := by
  intro j hj
  rw [h] at hj
  cases hj

theorem Channel.Progress.halt {c : Channel} (h : c.Progress) (r : HaltReason) : (c.halt r).Progress := by
  intro j hj
  cases hr : c.role with
  | output o => simp [Channel.halt, hr, Role.cut] at hj
  | input i =>
    have cut : j = { i with qual := none, timeoutLeft := none } := by simpa [Channel.halt, hr, Role.cut] using hj.symm
    rw [cut]
    exact (h i hr).of_cut nofun nofun

/-! ### The moves of a tick -/

theorem countUp_le (n : Nat) : countUp n ≤ Config.countMax := Nat.min_le_right ..

/-- A capture that does not reach the limit stays below it: the count stops at 65535, which a limit does not pass. -/
theorem countUp_lt {n limit : Nat} (below : n < limit) (ne : countUp n ≠ limit) : countUp n < limit :=
  lt_of_le_of_ne (le_trans (Nat.min_le_left ..) below) ne

/-- R93, R94: a qualification that a sample leaves is below the window and against the accepted level. -/
theorem InputRole.qualify_sound {i : InputRole} {a y : Sample} {now : Time} {x : Option Qualification} {b : Activity}
    (h : i.Progress b) (accepted : i.accepted = some a) (outcome : i.sampleOutcome a y now = .qualify x) :
    ∀ q, x = some q → q.count < i.window ∧ a ≠ q.candidate := by
  unfold InputRole.sampleOutcome at outcome
  rintro q rfl
  split at outcome
  case h_1 none =>
    split at outcome
    case isTrue => cases outcome
    case isFalse differs =>
      split at outcome
      case isTrue => cases outcome
      case isFalse window =>
        cases outcome
        exact ⟨Nat.pos_of_ne_zero window, Ne.symm differs⟩
  case h_2 p hp =>
    split at outcome
    case isFalse => cases outcome
    case isTrue =>
      split at outcome
      case isTrue => cases outcome
      case isFalse short =>
        cases outcome
        obtain ⟨_, _, l, hl, against⟩ := h.qual p hp
        cases accepted.symm.trans hl
        exact ⟨Nat.not_le.mp short, against⟩

theorem InputRole.windowStart_ne_none (i : InputRole) : i.windowStart ≠ none ↔ i.timeoutWindow ≠ 0 := by
  unfold InputRole.windowStart
  split <;> simp_all

theorem InputRole.windowStart_eq_some {i : InputRole} {n : Nat} (h : i.windowStart = some n) :
    1 ≤ n ∧ n ≤ i.timeoutWindow := by
  unfold InputRole.windowStart at h
  split at h
  case isTrue => cases h
  case isFalse window =>
    cases h
    exact ⟨Nat.pos_of_ne_zero window, le_refl _⟩

/-- Every move of a tick keeps progress sound. -/
theorem Channel.Moves.progress {b : Bool} {f : PatternId → Option Pattern} {c d : Channel} (m : Channel.Moves b f c d)
    (h : c.Progress) : d.Progress := by
  cases m with
  | deliveries => exact h
  | halt _ r => exact h.halt r
  | enterInput enters _ i waiting role =>
    intro j hj
    cases role.symm.trans hj
    have p := h i role
    rw [waiting] at p
    have clear : i.timeoutLeft = none := not_not.mp fun e => nomatch (p.window.mp e).1.1
    exact {
      captures := p.captures
      below := fun _ => p.below (.inl rfl)
      waiting := nofun
      window := iff_of_false (fun e => e clear) fun e => e.1.2 (p.waiting rfl)
      left := p.left
      qual := fun q hq => nomatch (p.qual q hq).1 }
  | firstSample _ i y running role first =>
    intro j hj
    cases hj
    have p := h i role
    exact {
      captures := p.captures
      below := p.below
      waiting := fun e => absurd (running.symm.trans e) nofun
      window := i.windowStart_ne_none.trans ⟨fun w => ⟨⟨running, nofun⟩, w⟩, fun w => w.2⟩
      left := fun n hn => InputRole.windowStart_eq_some hn
      qual := fun q hq => by
        obtain ⟨_, _, l, hl, _⟩ := p.qual q hq
        cases first.symm.trans hl }
  | qualify _ i a y now q running role accepted outcome =>
    intro j hj
    cases hj
    have p := h i role
    exact { p with
      qual := fun x hx => by
        obtain ⟨count, against⟩ := InputRole.qualify_sound p accepted outcome x hx
        exact ⟨running, count, a, accepted, against⟩ }
  | edge _ i a level running role accepted =>
    intro j hj
    cases hj
    have p := h i role
    exact { p with
      waiting := fun e => absurd (running.symm.trans e) nofun
      window := p.window.trans (by simp [InputRole.edged, accepted])
      qual := nofun }
  | countWindow _ i n running role left more =>
    intro j hj
    cases hj
    have p := h i role
    exact { p with
      window := (iff_of_true nofun (by rw [left]; exact nofun)).trans p.window
      left := fun k hk => by
        cases hk
        have := (p.left n left).2
        exact ⟨by omega, by dsimp only; omega⟩ }
  | startWindow _ i a running role accepted =>
    intro j hj
    cases hj
    have p := h i role
    exact { p with
      window := i.windowStart_ne_none.trans ⟨fun w => ⟨⟨running, by simp [accepted]⟩, w⟩, fun w => w.2⟩
      left := fun n hn => InputRole.windowStart_eq_some hn }
  | capture _ i time running role below =>
    intro j hj
    cases hj
    have p := h i role
    exact { p with
      captures := countUp_le _
      below := fun _ limit => countUp_lt (p.below (.inr running) limit) (below.resolve_left limit) }
  | limit _ i time running role =>
    intro j hj
    cases hj
    have p := h i role
    have captured : InputRole.Progress .done { i with captures := countUp i.captures, lastCapture := some time,
                                                      qual := none, timeoutLeft := none } :=
      { p.of_cut (a' := .done) nofun nofun with captures := countUp_le _, below := nofun }
    exact captured
  | rearmInput _ i time running role =>
    intro j hj
    cases hj
    exact .of_clear nofun rfl rfl rfl rfl
  | _ => exact .of_output rfl

/-- After an accepted level there is always one in RUNNING, until the channel enters RUNNING again. -/
theorem Channel.Moves.sampled {f : PatternId → Option Pattern} {c d : Channel} (m : Channel.Moves false f c d)
    (h : c.Sampled) : d.Sampled := by
  cases m with
  | deliveries => exact h
  | halt => exact .of_not_running nofun
  | qualify _ i a y now q running role => exact fun j hj run => by cases hj; exact h i role running
  | countWindow _ i n running role => exact fun j hj run => by cases hj; exact h i role running
  | startWindow _ i a running role => exact fun j hj run => by cases hj; exact h i role running
  | capture _ i time running role => exact fun j hj run => by cases hj; exact h i role running
  | firstSample _ i y running role first => exact fun j hj run => by cases hj; exact nofun
  | edge _ i a level running role => exact fun j hj run => by cases hj; exact nofun
  | limit => exact .of_not_running nofun
  | rearmInput => exact .of_not_running nofun
  | enterInput enters => cases enters
  | _ => exact .of_output rfl

theorem Channel.Travels.progress {b : Bool} {f : PatternId → Option Pattern} {c d : Channel} (m : Channel.Travels b f c d)
    (h : c.Progress) : d.Progress := by
  induction m with
  | refl => exact h
  | tail _ m ih => exact m.progress ih

theorem Channel.Travels.sampled {f : PatternId → Option Pattern} {c d : Channel} (m : Channel.Travels false f c d)
    (h : c.Sampled) : d.Sampled := by
  induction m with
  | refl => exact h
  | tail _ m ih => exact m.sampled ih

/-- Where the record is sound in every part, the own work of a tick leaves it so. -/
theorem Channel.inputSound_of_travels {f : PatternId → Option Pattern} {c d : Channel} (m : Channel.Travels false f c d)
    (h : c.InputSound) : d.InputSound := by
  obtain ⟨progress, sampled⟩ := c.inputSound_iff.mp h
  exact d.inputSound_iff.mpr ⟨m.progress progress, m.sampled sampled⟩

/-! ### A tick -/

section
variable {s t : State} {ch : ChannelId} {c : Channel}

/-- The own work of an input channel in RUNNING leaves a record with an accepted level. -/
theorem State.inputWork_inputSound {i : InputRole} (hc : s.channels[ch] = some c) (running : c.activity = .running)
    (hr : c.role = .input i) (progress : c.Progress) (y : Sample) :
    ∃ d, (s.inputWork ch y).channels[ch] = some d ∧ d.InputSound := by
  cases accepted : i.accepted with
  | none =>
    rw [State.inputWork_of_first hc hr accepted, State.firstSample_eq hc hr]
    refine ⟨_, (State.setChannel_getElem ..).trans (if_pos rfl), (Channel.inputSound_iff _).mpr ⟨?_, ?_⟩⟩
    · exact (Channel.Moves.firstSample (b := false) (f := s.store.patterns) c i y running hr accepted).progress progress
    · exact fun j hj _ => by cases hj; exact nofun
  | some a =>
    have sampled : c.Sampled := fun j hj _ => by
      cases hr.symm.trans hj
      rw [accepted]
      exact nofun
    obtain ⟨_, d, hd, m⟩ := State.Reaches.inputWork (b := false) rfl hc running hr y
    exact ⟨d, hd, Channel.inputSound_of_travels m (c.inputSound_iff.mpr ⟨progress, sampled⟩)⟩

/-- The own work of a tick leaves a record with an accepted level in RUNNING. -/
theorem State.ownWork_inputSound (hc : s.channels[ch] = some c) (progress : c.Progress) (y : Sample) (began : Bool) :
    ∃ d, (s.ownWork ch y began).channels[ch] = some d ∧ d.InputSound := by
  cases hr : c.role with
  | output o =>
    obtain ⟨_, d, hd, m⟩ := State.Reaches.ownWork rfl hc y began
    have output : d.isOutput = true := by
      have kept := ((State.Plays.refl ch s).ownWork y began).isOutput ch
      rw [hd, hc, Option.map_some, Option.map_some, Channel.isOutput, Channel.isOutput, hr] at kept
      exact Option.some.inj kept
    refine ⟨d, hd, (Channel.inputSound_iff d).mpr ⟨m.progress progress, fun j hj => ?_⟩⟩
    rw [Channel.isOutput, hj] at output
    cases output
  | input i =>
    by_cases running : c.activity = .running
    · rw [State.ownWork_of_running_input hc running hr]
      exact State.inputWork_inputSound hc running hr progress y
    by_cases met : c.activity = .waiting ∧ c.startCondition.met s.time = true
    · obtain ⟨waiting, met⟩ := met
      have input : ¬c.isOutput = true := by simp [Channel.isOutput, hr]
      obtain ⟨ds, raised⟩ := State.raise_some (s := s.setChannel ch (some { c with activity := .running })) ch .begin
        ((State.setChannel_getElem ..).trans (if_pos rfl))
      rw [State.ownWork_of_met hc waiting met, if_neg input, State.enterRunning_of_input hc hr]
      have entered := Channel.Moves.enterInput (f := s.store.patterns) rfl c i waiting hr
      exact State.inputWork_inputSound (c := { c with activity := .running, deliveries := ds }) raised rfl hr
        (entered.progress progress) y
    · rw [State.ownWork_of_rest hc running fun waiting => by simpa using fun h => met ⟨waiting, h⟩]
      exact ⟨c, hc, c.inputSound_iff.mpr ⟨progress, .of_not_running running⟩⟩

theorem State.tickChannel_inputSound (hc : s.channels[ch] = some c) (h : c.InputSound) (y : Sample) :
    ∃ d, (s.tickChannel ch y).channels[ch] = some d ∧ d.InputSound := by
  obtain ⟨progress, _⟩ := c.inputSound_iff.mp h
  obtain ⟨_, d, hd, m⟩ := State.Reaches.deliveryStage rfl hc
  exact State.ownWork_inputSound hd (m.progress progress) y _

/-- A record that a tick of `ch` leaves is that of `ch`, or it is another's but for deliveries. -/
theorem State.Plays.record (h : State.Plays ch s t) {x : ChannelId} {d : Channel} (hd : t.channels[x] = some d) :
    ∃ c, s.channels[x] = some c ∧ (x = ch ∨ ∃ ds, d = { c with deliveries := ds }) := by
  have wiring := h.wiring x
  cases hc : s.channels[x] with
  | none =>
    rw [hd, hc] at wiring
    cases wiring
  | some c =>
    refine ⟨c, rfl, ?_⟩
    by_cases at_x : x = ch
    · exact .inl at_x
    · obtain ⟨ds, e⟩ := h.others x c at_x hc
      exact .inr ⟨ds, Option.some.inj (hd.symm.trans e)⟩

theorem State.CaptureSound.tick (h : s.CaptureSound) (ch : ChannelId) (y : Sample) : (s.tickChannel ch y).CaptureSound := by
  intro x d hd
  obtain ⟨c, hc, rfl | ⟨ds, rfl⟩⟩ := (State.Plays.tickChannel s ch y).record hd
  · obtain ⟨e, he, sound⟩ := State.tickChannel_inputSound hc (h _ c hc) y
    cases hd.symm.trans he
    exact sound
  · exact h x c hc

/-! ### The effects of requests -/

/-- A channel at rest has no qualification and no window running. -/
theorem Channel.Progress.clear_of_rest {i : InputRole} (h : c.Progress) (hr : c.role = .input i) (resting : c.inPlay = false) :
    i.qual = none ∧ i.timeoutLeft = none := by
  have notRunning : c.activity ≠ .running := fun e => by simp [Channel.inPlay, e] at resting
  have p := h i hr
  refine ⟨Option.eq_none_iff_forall_ne_some.mpr fun q hq => notRunning (p.qual q hq).1, ?_⟩
  exact not_not.mp fun e => notRunning (p.window.mp e).1.1

/-- New settings at rest leave what is sound at rest. -/
theorem InputRole.Progress.of_rest {a : Activity} {i : InputRole} (captures : i.captures ≤ Config.countMax)
    (hw : a ≠ .waiting) (hr : a ≠ .running) (qual : i.qual = none) (left : i.timeoutLeft = none) : i.Progress a where
  captures := captures
  below inPlay := by rcases inPlay with e | e <;> contradiction
  waiting e := absurd e hw
  window := by rw [left]; exact iff_of_false (fun h => h rfl) fun h => hr h.1.1
  left n hn := by rw [left] at hn; cases hn
  qual q hq := by rw [qual] at hq; cases hq

theorem Channel.inputSound_of_output {d : Channel} {o : OutputRole} (h : d.role = .output o) : d.InputSound := by
  unfold Channel.InputSound
  rw [h]
  trivial

theorem Channel.InputSound.halt (h : c.InputSound) (r : HaltReason) : (c.halt r).InputSound :=
  (Channel.inputSound_iff _).mpr ⟨(c.inputSound_iff.mp h).1.halt r, .of_not_running nofun⟩

theorem Channel.InputSound.cleared (c : Channel) (now : Time) : (c.cleared now).InputSound := by
  refine (Channel.inputSound_iff _).mpr ⟨fun j hj => ?_, .of_not_running nofun⟩
  cases hr : c.role with
  | output o => simp [Channel.cleared, hr, Role.cleared] at hj
  | input i =>
    have e : j = i.cleared := by simpa [Channel.cleared, hr, Role.cleared] using hj.symm
    rw [e]
    exact .of_clear nofun rfl rfl rfl rfl

/-- A record that the effect of a request leaves is sound where the one before was. -/
theorem State.Rewrites.inputSound {old : Option Channel} {d : Channel} (w : s.Rewrites old d)
    (h : ∀ c, old = some c → c.InputSound) : d.InputSound := by
  cases w with
  | kept => exact h _ rfl
  | bound r p tb role =>
    rcases role with rfl | rfl
    · exact Channel.inputSound_of_output rfl
    · exact (Channel.inputSound_iff _).mpr
        ⟨fun j hj => by cases hj; exact .of_clear nofun rfl rfl rfl rfl, .of_not_running nofun⟩
  | held c => exact (h c rfl).halt _
  | cleared c => exact .cleared c _
  | frozen c => exact h c rfl
  | inputSettings c i j role resting progress =>
    have before := (c.inputSound_iff.mp (h c rfl)).1
    obtain ⟨qual, left⟩ := before.clear_of_rest role resting
    have notRunning : c.activity ≠ .running := fun e => by simp [Channel.inPlay, e] at resting
    have notWaiting : c.activity ≠ .waiting := fun e => by simp [Channel.inPlay, e] at resting
    refine (Channel.inputSound_iff _).mpr ⟨fun k hk => ?_, .of_not_running notRunning⟩
    cases hk
    rw [progress]
    exact .of_rest (before i role).captures notWaiting notRunning qual left
  | startInput f c i role =>
    refine (Channel.inputSound_iff _).mpr ⟨fun k hk => ?_, .of_not_running nofun⟩
    cases hk
    exact .of_clear nofun rfl rfl rfl rfl
  | stop c => exact (h c rfl).halt _
  | _ => exact Channel.inputSound_of_output rfl

theorem State.CaptureSound.of_same (h : s.CaptureSound) (channels : t.channels = s.channels) : t.CaptureSound := by
  unfold State.CaptureSound
  rw [channels]
  exact h

theorem State.CaptureSound.enterHold (h : s.CaptureSound) (cause : HoldCause) : (s.enterHold cause).CaptureSound := by
  intro x d hd
  rw [State.enterHold_eq] at hd
  have held : heldRecord s.channels[x] = some d := (State.heldChannels_getElem ..).symm.trans hd
  exact (State.Rewrites.of_heldRecord held).inputSound (h x)

theorem State.CaptureSound.changePinHold (h : s.CaptureSound) : s.changePinHold.CaptureSound := by
  rcases s.changePinHold_cases with ⟨_, _, e⟩ | ⟨_, _, e⟩ | ⟨_, p, e⟩ <;> rw [e]
  · exact State.CaptureSound.enterHold (s := s.withPinHold .asserted) h _
  · exact h
  · exact h

theorem State.captureSound_kept : KeptByBlocks State.CaptureSound where
  same _ _ e h := h.of_same e.channels
  effect _ _ h e x _ hd := (e.rewrites hd).inputSound (h x)
  tick _ ch y h := h.tick ch y
  pinHold _ h := h.changePinHold
  runCount _ _ h := h
  clock _ h := h
  taken _ _ h := h
  cold _ x c hc := by simp [State.cold] at hc

end

/-- Settles O58: every command, and every part of a base tick, keeps the progress of every input channel sound. -/
theorem captureProgressStaysSound : Obligations.CaptureProgressStaysSound :=
  fun _ _ sound e => State.captureSound_kept.step sound e

end Sys2Proof.Machine
end

section
/-! SUPPORT. How a property of the state is shown to survive a tick of a channel: it is enough that reports, placements, the removal of a
delivery, writes of the record that keep its references, and swaps keep it. -/

namespace Sys2Proof.Machine

/-- The record `d` differs from `c` in neither deliveries, wiring nor references. -/
structure Channel.KeepsRefs (c d : Channel) : Prop where
  deliveries : d.deliveries = c.deliveries
  wiring : d.wiring = c.wiring
  refs : ∀ p, d.role.refs p = c.role.refs p

/-- What a property of the state must survive to survive every tick of channel `ch`. -/
structure KeptByTick (ch : ChannelId) (P : State → Prop) : Prop where
  report : ∀ s b, P s → P (s.report b)
  place : ∀ s l, P s → P (s.placeDeliveries l)
  undeliver : ∀ s c l, P s → s.channels[ch] = some c → P (s.setChannel ch (some (c.undeliver l)))
  write : ∀ s c d, P s → s.channels[ch] = some c → c.KeepsRefs d → P (s.setChannel ch (some d))
  swap : ∀ s c o g, P s → s.channels[ch] = some c → c.role = .output o → o.staged = some g →
    P (State.setChannel { s with store := s.store.releaseField o.active } ch
      (some { c with role := .output (o.swapped s.store g) }))

namespace Channel.KeepsRefs

variable {c d : Channel} {o o' : OutputRole} {i j : InputRole}

theorem of_output (role : c.role = .output o) (role' : d.role = .output o') (idle : o'.idleLevel = o.idleLevel)
    (active : o'.active = o.active) (staged : o'.staged = o.staged) (deliveries : d.deliveries = c.deliveries)
    (pin : d.pin = c.pin) (timebase : d.timebase = c.timebase) (frozen : d.frozen = c.frozen) : c.KeepsRefs d where
  deliveries := deliveries
  wiring := by simp only [Channel.wiring, pin, timebase, frozen, role, role', Role.cleared, idle]
  refs p := by simp only [role, role', Role.refs, active, staged]

theorem of_input (role : c.role = .input i) (role' : d.role = .input j) (cleared : j.cleared = i.cleared)
    (deliveries : d.deliveries = c.deliveries) (pin : d.pin = c.pin) (timebase : d.timebase = c.timebase)
    (frozen : d.frozen = c.frozen) : c.KeepsRefs d where
  deliveries := deliveries
  wiring := by simp only [Channel.wiring, pin, timebase, frozen, role, role', Role.cleared, cleared]
  refs p := by simp only [role, role', Role.refs]

theorem halt (c : Channel) (r : HaltReason) : c.KeepsRefs (c.halt r) where
  deliveries := rfl
  wiring := c.wiring_halt r
  refs p := by
    unfold Channel.halt
    cases c.role <;> rfl

end Channel.KeepsRefs

theorem OutputRole.beginFirst_keeps (o : OutputRole) (q : Option Pattern) :
    (o.beginFirst q).idleLevel = o.idleLevel ∧ (o.beginFirst q).active = o.active ∧ (o.beginFirst q).staged = o.staged := by
  cases q with
  | none => exact ⟨rfl, rfl, rfl⟩
  | some q => exact ⟨o.begin_idleLevel q 0, o.begin_active q 0, o.begin_staged q 0⟩

namespace KeptByTick

variable {ch : ChannelId} {P : State → Prop} {s : State} {c : Channel} {o : OutputRole} {i : InputRole}

theorem raise (k : KeptByTick ch P) (h : P s) (x : ChannelId) (e : EventKind) : P (s.raise x e) :=
  State.raise_keeps k.report k.place x e h

/-- An output channel's fields are written, but for the idle level and the references. -/
theorem updateOutput (k : KeptByTick ch P) (h : P s) {f : OutputRole → OutputRole} (idle : ∀ o, (f o).idleLevel = o.idleLevel)
    (active : ∀ o, (f o).active = o.active) (staged : ∀ o, (f o).staged = o.staged) :
    P (s.updateChannel ch fun c => c.updateOutput f) := by
  cases hc : s.channels[ch] with
  | none => rwa [State.updateChannel_eq_of_none hc]
  | some c =>
    rw [State.updateChannel_eq_of_some hc]
    refine k.write s c _ h hc ?_
    cases hr : c.role with
    | output o =>
      have updated : c.updateOutput f = { c with role := .output (f o) } := by simp only [Channel.updateOutput, hr]
      rw [updated]
      exact .of_output hr rfl (idle o) (active o) (staged o) rfl rfl rfl rfl
    | input i =>
      have same : c.updateOutput f = c := by simp only [Channel.updateOutput, hr]
      rw [same]
      exact ⟨rfl, rfl, fun _ => rfl⟩

/-- An input channel's progress is written. -/
theorem updateInput (k : KeptByTick ch P) (h : P s) {f : InputRole → InputRole} (cleared : ∀ i, (f i).cleared = i.cleared) :
    P (s.updateChannel ch fun c => c.updateInput f) := by
  cases hc : s.channels[ch] with
  | none => rwa [State.updateChannel_eq_of_none hc]
  | some c =>
    rw [State.updateChannel_eq_of_some hc]
    refine k.write s c _ h hc ?_
    cases hr : c.role with
    | input i =>
      have updated : c.updateInput f = { c with role := .input (f i) } := by simp only [Channel.updateInput, hr]
      rw [updated]
      exact .of_input hr rfl (cleared i) rfl rfl rfl rfl
    | output o =>
      have same : c.updateInput f = c := by simp only [Channel.updateInput, hr]
      rw [same]
      exact ⟨rfl, rfl, fun _ => rfl⟩

/-! ### Output channels -/

theorem enterRunning (k : KeptByTick ch P) (h : P s) : P (s.enterRunning ch) := by
  cases hc : s.channels[ch] with
  | none => simpa only [State.enterRunning, hc] using h
  | some c =>
    cases hr : c.role with
    | output o =>
      obtain ⟨idle, active, staged⟩ := OutputRole.beginFirst_keeps o (s.activePattern o)
      have entered := k.write s c
        { c with activity := .running, role := .output (o.beginFirst (s.activePattern o)) } h hc
        (.of_output hr rfl idle active staged rfl rfl rfl rfl)
      rw [State.enterRunning_of_output hc hr]
      exact k.raise entered ch .begin
    | input i =>
      have entered := k.write s c { c with activity := .running } h hc (.of_input hr hr rfl rfl rfl rfl rfl)
      rw [State.enterRunning_of_input hc hr]
      exact k.raise entered ch .begin

theorem swaps (k : KeptByTick ch P) (h : P s) (cause : SwapCause) : P (s.swap ch cause) := by
  cases e : s.outputChannel ch with
  | none => simpa only [State.swap, e] using h
  | some x =>
    obtain ⟨c, o⟩ := x
    obtain ⟨hc, hr⟩ := State.outputChannel_eq_some.mp e
    cases hg : o.staged with
    | none => rwa [State.swap_of_unstaged hc hr hg]
    | some g =>
      rw [State.swap_of_staged hc hr hg]
      exact k.report _ _ (k.raise (k.swap s c o g h hc hr hg) _ _)

theorem beginSegment (k : KeptByTick ch P) (h : P s) (p : Pattern) (n reps : Nat) : P (s.beginSegment ch p n reps) :=
  k.updateOutput h (fun o => o.begin_idleLevel p n) (fun o => o.begin_active p n) fun o => o.begin_staged p n

theorem endPlay (k : KeptByTick ch P) (h : P s) (p : Pattern) : P (s.endPlay ch p) := by
  have h := k.raise h ch .done
  unfold State.endPlay
  dsimp only
  split
  case h_1 => exact h
  case h_2 c o e =>
    obtain ⟨hc, hr⟩ := State.outputChannel_eq_some.mp e
    split
    case isTrue => exact k.write _ c _ h hc (.of_output hr rfl rfl rfl rfl rfl rfl rfl rfl)
    case isFalse => exact k.report _ _ (k.write _ c _ h hc (.of_output hr rfl rfl rfl rfl rfl rfl rfl rfl))

theorem endRepetition (k : KeptByTick ch P) (h : P s) (o : OutputRole) (p : Pattern) : P (s.endRepetition ch o p) := by
  have h := k.raise (k.updateOutput h (f := fun x => { x with reps := countUp o.reps }) (fun _ => rfl) (fun _ => rfl)
    fun _ => rfl) ch .cycle
  unfold State.endRepetition
  dsimp only
  split
  case isTrue => exact k.swaps h _
  case isFalse =>
    split
    case isTrue => exact k.beginSegment h _ _ _
    case isFalse => exact k.endPlay h _

theorem afterMark (k : KeptByTick ch P) (h : P s) (o : OutputRole) (p : Pattern) : P (s.afterMark ch o p) := by
  unfold State.afterMark
  dsimp only
  split
  case isTrue =>
    split
    case isTrue => exact k.swaps (k.raise h _ _) _
    case isFalse => exact k.swaps h _
  case isFalse =>
    split
    case isTrue => exact k.endRepetition h _ _
    case isFalse => exact k.beginSegment h _ _ _

theorem endSegment (k : KeptByTick ch P) (h : P s) : P (s.endSegment ch) := by
  unfold State.endSegment
  split
  case h_1 => exact h
  case h_2 =>
    split
    case h_1 => exact h
    case h_2 =>
      split
      case h_1 => exact h
      case h_2 g _ =>
        refine k.afterMark ?_ _ _
        split
        case isTrue => exact k.raise h _ _
        case isFalse => exact h

theorem countSegment (k : KeptByTick ch P) (h : P s) : P (s.countSegment ch) := by
  unfold State.countSegment
  split
  case h_1 => exact h
  case h_2 =>
    split
    case h_1 => exact h
    case h_2 =>
      split
      case isTrue => exact k.endSegment h
      case isFalse => exact k.updateOutput h (fun _ => rfl) (fun _ => rfl) fun _ => rfl

theorem restart (k : KeptByTick ch P) (h : P s) : P (s.restart ch) := by
  unfold State.restart
  split
  case h_1 => exact h
  case h_2 =>
    split
    case h_1 => exact h
    case h_2 => exact k.beginSegment h _ _ _

/-! ### Input channels -/

theorem capture (k : KeptByTick ch P) (h : P s) (x : CaptureKind) (time : Time) : P (s.capture ch x time) := by
  unfold State.capture
  split
  case h_1 => exact h
  case h_2 c i e =>
    obtain ⟨hc, hr⟩ := State.inputChannel_eq_some.mp e
    exact k.report _ _ (k.write s c _ h hc (.of_input hr rfl rfl rfl rfl rfl rfl))

theorem testLimit (k : KeptByTick ch P) (h : P s) : P (s.testLimit ch) := by
  unfold State.testLimit
  split
  case h_1 => exact h
  case h_2 =>
    split
    case isFalse => exact h
    case isTrue =>
      have h := k.raise h ch .limit
      dsimp only
      split
      case h_1 => exact h
      case h_2 c i e =>
        obtain ⟨hc, hr⟩ := State.inputChannel_eq_some.mp e
        split
        case isTrue => exact k.write _ c _ h hc (.of_input hr rfl rfl rfl rfl rfl rfl)
        case isFalse =>
          have cut : c.limitReached.role = .input { i with qual := none, timeoutLeft := none } := by
            simp only [Channel.limitReached, hr, Role.cut]
          exact k.report _ _ (k.write _ c _ h hc (.of_input hr cut rfl rfl rfl rfl rfl))

theorem startWindow (k : KeptByTick ch P) (h : P s) : P (s.startWindow ch) := k.updateInput h fun _ => rfl

theorem acceptEdge (k : KeptByTick ch P) (h : P s) (level : Sample) (start : Time) : P (s.acceptEdge ch level start) := by
  cases e : s.inputChannel ch with
  | none => simpa only [State.acceptEdge, e] using h
  | some x =>
    obtain ⟨c, i⟩ := x
    obtain ⟨hc, hr⟩ := State.inputChannel_eq_some.mp e
    have edged := k.write s c { c with role := .input (i.edged level) } h hc (.of_input hr rfl rfl rfl rfl rfl rfl)
    cases matching : i.edgeSelect.admits level with
    | false =>
      rw [State.acceptEdge_of_other hc hr start matching]
      exact edged
    | true =>
      rw [State.acceptEdge_of_match hc hr start matching]
      exact k.testLimit (k.startWindow (k.raise (k.capture edged _ _) _ _))

theorem halts (k : KeptByTick ch P) (h : P s) (r : HaltReason) : P (s.updateChannel ch fun c => c.halt r) := by
  cases hc : s.channels[ch] with
  | none => rwa [State.updateChannel_eq_of_none hc]
  | some c =>
    rw [State.updateChannel_eq_of_some hc]
    exact k.write s c _ h hc (.halt c r)

theorem expire (k : KeptByTick ch P) (h : P s) : P (s.expire ch) := by
  unfold State.expire
  split
  case h_1 => exact h
  case h_2 =>
    dsimp only
    split
    case h_1 => exact k.startWindow (k.raise (k.report _ _ h) _ _)
    case h_2 => exact k.report _ _ (k.halts (k.raise (k.report _ _ h) _ _) _)

theorem countWindow (k : KeptByTick ch P) (h : P s) : P (s.countWindow ch) := by
  unfold State.countWindow
  split
  case h_1 => exact h
  case h_2 =>
    split
    case h_1 => exact h
    case h_2 =>
      split
      case isTrue => exact k.expire h
      case isFalse => exact k.updateInput h fun _ => rfl

theorem inputWork (k : KeptByTick ch P) (h : P s) (y : Sample) : P (s.inputWork ch y) := by
  unfold State.inputWork
  split
  case h_1 => exact h
  case h_2 =>
    split
    case h_1 => exact k.startWindow (k.updateInput h fun _ => rfl)
    case h_2 =>
      split
      case h_1 => exact k.countWindow h
      case h_2 => exact k.countWindow (k.updateInput h fun _ => rfl)
      case h_3 =>
        split
        case isTrue => exact k.acceptEdge h _ _
        case isFalse => exact k.countWindow (k.acceptEdge h _ _)

/-! ### The stages of a tick -/

theorem deliver (k : KeptByTick ch P) (h : P s) (d : Delivery) : P (s.deliver ch d).state := by
  unfold State.deliver
  split
  · unfold State.deliverStart
    split
    case h_1 => exact h
    case h_2 =>
      split
      case isTrue => exact h
      case isFalse =>
        split
        case isTrue => exact k.enterRunning h
        case isFalse => exact h
  · unfold State.deliverStop
    split
    case h_1 => exact h
    case h_2 c hc =>
      split
      case isTrue => exact k.report _ _ (k.write s c _ h hc (.halt c _))
      case isFalse => exact h
  · unfold State.deliverRestart
    split
    case h_1 => exact h
    case h_2 =>
      split
      case isTrue => exact k.restart h
      case isFalse => exact h
  · unfold State.deliverSwap
    split
    case h_1 => exact h
    case h_2 =>
      split
      case isTrue => exact k.swaps h _
      case isFalse => exact h
  · unfold State.deliverStamp
    split
    case h_1 => exact h
    case h_2 =>
      split
      case isTrue => exact k.testLimit (k.capture h _ _)
      case isFalse => exact h

theorem applyLine (k : KeptByTick ch P) {w : Staging} (h : P w.state) (l : LineId) : P (w.applyLine ch l).state := by
  unfold Staging.applyLine
  split
  case h_1 => exact h
  case h_2 c hc =>
    split
    case h_1 => exact h
    case h_2 => exact k.deliver (k.undeliver _ c l h hc) _

theorem ownWork (k : KeptByTick ch P) (h : P s) (y : Sample) (began : Bool) : P (s.ownWork ch y began) := by
  unfold State.ownWork
  split
  case h_1 => exact h
  case h_2 =>
    split
    case h_1 =>
      split
      case isFalse => exact h
      case isTrue =>
        split
        case isTrue => exact k.enterRunning h
        case isFalse => exact k.inputWork (k.enterRunning h) _
    case h_2 =>
      split
      case isTrue =>
        split
        case isTrue => exact h
        case isFalse => exact k.countSegment h
      case isFalse => exact k.inputWork h _
    case h_3 => exact h

/-- Every tick of the channel keeps the property. -/
theorem tickChannel (k : KeptByTick ch P) (h : P s) (y : Sample) : P (s.tickChannel ch y) :=
  k.ownWork (foldl_keeps (P := fun w : Staging => P w.state) (fun _ l h => k.applyLine h l) lines h) y _

end KeptByTick

end Sys2Proof.Machine
end

section
/-! SUPPORT. What both roles share of every record stays sound, and with it every delivery (R34, R41, R119, R125). -/

namespace Sys2Proof.Machine

section
variable {s t : State} {ch x : ChannelId} {c d : Channel} {b : Bool} {f : PatternId → Option Pattern}

/-! ### Rearm, start condition and halt reason -/

/-- R34, R41: rearm only with TRIGGER, and a halt reason exactly in HALTED. -/
structure Channel.StateSound (c : Channel) : Prop where
  rearm : c.rearm = true → c.startCondition = .trigger
  halted : c.activity = .halted ↔ c.haltReason ≠ .none

theorem Channel.StateSound.not_halted (h : c.StateSound) (ha : c.activity ≠ .halted) : c.haltReason = .none :=
  not_not.mp fun e => ha (h.halted.mpr e)

/-- A channel in play has no halt reason, and has none in any other activity but HALTED. -/
theorem Channel.StateSound.leaves (h : c.StateSound) (ha : c.activity ≠ .halted) (hd : d.activity ≠ .halted)
    (reason : d.haltReason = c.haltReason) (rearm : d.rearm = true → d.startCondition = .trigger) : d.StateSound :=
  ⟨rearm, iff_of_false hd fun e => e (reason.trans (h.not_halted ha))⟩

theorem Channel.StateSound.halt (h : c.StateSound) {r : HaltReason} (reason : r ≠ .none) : (c.halt r).StateSound :=
  ⟨h.rearm, iff_of_true rfl reason⟩

theorem Channel.Moves.stateSound (m : Channel.Moves b f c d) (h : c.StateSound) : d.StateSound := by
  cases m with
  | deliveries => exact ⟨h.rearm, h.halted⟩
  | enterInput _ _ i waiting => exact h.leaves (by rw [waiting]; exact nofun) nofun rfl h.rearm
  | enterOutput _ _ o waiting => exact h.leaves (by rw [waiting]; exact nofun) nofun rfl h.rearm
  | halt _ r inPlay reason => exact h.halt reason
  | finish _ o q running => exact h.leaves (by rw [running]; exact nofun) nofun rfl h.rearm
  | rearmOutput _ o running => exact h.leaves (by rw [running]; exact nofun) nofun rfl fun _ => rfl
  | limit _ i time running => exact h.leaves (by rw [running]; exact nofun) nofun rfl h.rearm
  | rearmInput _ i time running => exact h.leaves (by rw [running]; exact nofun) nofun rfl fun _ => rfl
  | _ => exact ⟨h.rearm, h.halted⟩

theorem Channel.Travels.stateSound (m : Channel.Travels b f c d) (h : c.StateSound) : d.StateSound := by
  induction m with
  | refl => exact h
  | tail _ m ih => exact m.stateSound ih

/-! ### Deliveries -/

/-- R119, R125: a delivery counts 1 to 255 events and asks for an action of the role. -/
def Delivery.SoundFor (d : Delivery) (r : Role) : Prop := 1 ≤ d.count ∧ d.count ≤ Config.coalescedMax ∧ r.accepts d.action = true

/-- Every delivery of the record is sound for its role. -/
def Channel.DeliveriesSound (c : Channel) : Prop := ∀ (l : LineId) (d : Delivery), c.deliveries[l] = some d → d.SoundFor c.role

theorem Channel.commonSound_iff : c.CommonSound ↔ c.StateSound ∧ c.DeliveriesSound :=
  ⟨fun ⟨rearm, halted, deliveries⟩ => ⟨⟨rearm, halted⟩, deliveries⟩, fun ⟨⟨rearm, halted⟩, deliveries⟩ => ⟨rearm, halted, deliveries⟩⟩

@[simp] theorem Role.accepts_cleared (r : Role) (a : Action) : r.cleared.accepts a = r.accepts a := by
  cases r <;> cases a <;> rfl

@[simp] theorem Role.raises_cleared (r : Role) (k : EventKind) : r.cleared.raises k = r.raises k := by
  cases r <;> cases k <;> rfl

/-- Roles of one configuration accept and raise the same. -/
theorem Role.accepts_congr {r r' : Role} (h : r'.cleared = r.cleared) (a : Action) : r'.accepts a = r.accepts a := by
  rw [← Role.accepts_cleared, h, Role.accepts_cleared]

theorem Role.raises_congr {r r' : Role} (h : r'.cleared = r.cleared) (k : EventKind) : r'.raises k = r.raises k := by
  rw [← Role.raises_cleared, h, Role.raises_cleared]

theorem Channel.wiring_role (h : d.wiring = c.wiring) : d.role.cleared = c.role.cleared :=
  congrArg (fun w : PinId × TimebaseId × Bool × Role => w.2.2.2) h

theorem Channel.DeliveriesSound.of_same (h : c.DeliveriesSound) (deliveries : d.deliveries = c.deliveries)
    (accepts : ∀ a, d.role.accepts a = c.role.accepts a) : d.DeliveriesSound := by
  intro l e he
  rw [deliveries] at he
  obtain ⟨lo, hi, valid⟩ := h l e he
  exact ⟨lo, hi, (accepts _).trans valid⟩

theorem Channel.DeliveriesSound.undeliver (h : c.DeliveriesSound) (l : LineId) : (c.undeliver l).DeliveriesSound := by
  intro k e he
  have he : (c.deliveries.set l none)[k] = some e := he
  rw [getElem_set_fin] at he
  split at he
  case isTrue => cases he
  case isFalse => exact h k e he

/-- R125: an event that joins a pending delivery counts up to 255; one that adds a delivery asks for the listener's action. -/
theorem Channel.DeliveriesSound.place (h : c.DeliveriesSound) (l : LineId) {a : Action} (valid : c.role.accepts a = true)
    (now : Time) : (c.place l a now).DeliveriesSound := by
  intro k e he
  unfold Channel.place at he
  dsimp only at he
  rw [getElem_set_fin] at he
  split at he
  case isFalse => exact h k e he
  case isTrue =>
    cases hd : c.deliveries[l] with
    | none =>
      rw [hd] at he
      cases he
      exact ⟨le_refl _, (by decide : 1 ≤ Config.coalescedMax), valid⟩
    | some d =>
      rw [hd] at he
      cases he
      obtain ⟨_, _, valid⟩ := h l d hd
      exact ⟨le_min (Nat.le_add_left _ _) (by decide), Nat.min_le_right .., valid⟩

theorem Channel.DeliveriesSound.of_empty (h : c.deliveries = Vector.replicate 8 none) : c.DeliveriesSound := by
  intro l e he
  rw [h] at he
  simp at he

/-- R119: every listener's target is bound, in a role that accepts the action. -/
def State.ListenersSound (s : State) : Prop := ∀ (l : LineId) (ch : ChannelId) (a : Action), s.fabric.listeners[l][ch] = some a →
  ∃ c, s.channels[ch] = some c ∧ c.role.accepts a = true

/-- The listeners ask for valid actions, and so do all deliveries: what a tick keeps. -/
def State.Delivering (s : State) : Prop :=
  s.ListenersSound ∧ ∀ (x : ChannelId) (c : Channel), s.channels[x] = some c → c.DeliveriesSound

/-- A record is written that accepts the same, with sound deliveries. -/
theorem State.Delivering.set (h : s.Delivering) (hc : s.channels[ch] = some c) (accepts : ∀ a, d.role.accepts a = c.role.accepts a)
    (sound : d.DeliveriesSound) (fabric : t.fabric = s.fabric) (channels : t.channels = s.channels.set ch (some d)) :
    t.Delivering := by
  obtain ⟨listeners, deliveries⟩ := h
  refine ⟨fun l y a hl => ?_, fun y e he => ?_⟩
  · rw [fabric] at hl
    obtain ⟨e, he, valid⟩ := listeners l y a hl
    rw [channels, getElem_set_fin]
    split
    case isTrue at_y =>
      subst at_y
      cases hc.symm.trans he
      exact ⟨d, rfl, (accepts a).trans valid⟩
    case isFalse => exact ⟨e, he, valid⟩
  · rw [channels, getElem_set_fin] at he
    split at he
    case isTrue =>
      cases he
      exact sound
    case isFalse => exact deliveries y e he

theorem State.Delivering.place (h : s.Delivering) (l : LineId) : (s.placeDeliveries l).Delivering := by
  obtain ⟨listeners, deliveries⟩ := h
  refine ⟨fun k y a hl => ?_, fun y e he => ?_⟩
  · obtain ⟨e, he, valid⟩ := listeners k y a hl
    obtain ⟨ds, placed⟩ := State.placeDeliveries_some l he
    exact ⟨_, placed, valid⟩
  · rw [State.placeDeliveries_getElem] at he
    split at he
    case h_1 a c hl hc =>
      cases he
      obtain ⟨c', hc', valid⟩ := listeners l y a hl
      cases hc.symm.trans hc'
      exact (deliveries y c hc).place l valid s.time
    case h_2 => exact deliveries y e he

theorem State.delivering_kept (ch : ChannelId) : KeptByTick ch State.Delivering where
  report _ _ h := h
  place _ l h := h.place l
  undeliver _ c l h hc := h.set (d := c.undeliver l) hc (fun _ => rfl) ((h.2 ch c hc).undeliver l) rfl rfl
  write _ c _ h hc k :=
    have accepts := Role.accepts_congr (Channel.wiring_role k.wiring)
    h.set hc accepts ((h.2 ch c hc).of_same k.deliveries accepts) rfl rfl
  swap s c o g h hc hr hg :=
    have accepts (a : Action) : Role.accepts (.output (o.swapped s.store g)) a = c.role.accepts a := by rw [hr]; cases a <;> rfl
    h.set (d := { c with role := .output (o.swapped s.store g) }) hc accepts ((h.2 ch c hc).of_same rfl accepts) rfl rfl

/-- A tick keeps every record sound in what both roles share, where the listeners ask for valid actions. -/
theorem State.CommonSound.tick (h : s.CommonSound) (listeners : s.ListenersSound) (ch : ChannelId) (y : Sample) :
    (s.tickChannel ch y).CommonSound := by
  have delivering : s.Delivering := ⟨listeners, fun x c hc => (Channel.commonSound_iff.mp (h x c hc)).2⟩
  intro x d hd
  refine Channel.commonSound_iff.mpr ⟨?_, ((State.delivering_kept ch).tickChannel delivering y).2 x d hd⟩
  obtain ⟨c, hc, rfl | ⟨ds, rfl⟩⟩ := (State.Plays.tickChannel s ch y).record hd
  · obtain ⟨_, e, he, m⟩ := State.Reaches.tickChannel hc y
    cases hd.symm.trans he
    exact m.stateSound (Channel.commonSound_iff.mp (h _ c hc)).1
  · obtain ⟨rearm, halted⟩ := (Channel.commonSound_iff.mp (h x c hc)).1
    exact ⟨rearm, halted⟩

/-! ### The effects of requests -/

/-- A write that leaves activity, start condition, rearm, halt reason and deliveries, and accepts the same. -/
theorem Channel.CommonSound.of_role (h : c.CommonSound) (activity : d.activity = c.activity)
    (condition : d.startCondition = c.startCondition) (rearm : d.rearm = c.rearm) (reason : d.haltReason = c.haltReason)
    (deliveries : d.deliveries = c.deliveries) (accepts : ∀ a, d.role.accepts a = c.role.accepts a) : d.CommonSound := by
  obtain ⟨⟨hrearm, hhalted⟩, hdeliveries⟩ := Channel.commonSound_iff.mp h
  refine Channel.commonSound_iff.mpr ⟨⟨?_, ?_⟩, hdeliveries.of_same deliveries accepts⟩
  · rw [rearm, condition]
    exact hrearm
  · rw [activity, reason]
    exact hhalted

theorem Channel.CommonSound.halt (h : c.CommonSound) {r : HaltReason} (reason : r ≠ .none) : (c.halt r).CommonSound := by
  obtain ⟨state, deliveries⟩ := Channel.commonSound_iff.mp h
  refine Channel.commonSound_iff.mpr ⟨state.halt reason, deliveries.of_same rfl ?_⟩
  exact Role.accepts_congr (Channel.wiring_role (c.wiring_halt r))

/-- A channel in IDLE with nothing pending. -/
theorem Channel.CommonSound.of_idle (activity : c.activity = .idle) (rearm : c.rearm = false) (reason : c.haltReason = .none)
    (deliveries : c.deliveries = Vector.replicate 8 none) : c.CommonSound := by
  refine Channel.commonSound_iff.mpr ⟨⟨?_, ?_⟩, .of_empty deliveries⟩
  · rw [rearm]
    exact nofun
  · rw [activity, reason]
    exact iff_of_false nofun fun e => e rfl

theorem Channel.CommonSound.started (h : c.CommonSound) {fields : StartFields} {r : Role}
    (rearm : fields.rearm = true → fields.condition = .trigger) (accepts : ∀ a, r.accepts a = c.role.accepts a) :
    (c.started fields r).CommonSound :=
  Channel.commonSound_iff.mpr
    ⟨⟨rearm, iff_of_false nofun fun e => e rfl⟩, (Channel.commonSound_iff.mp h).2.of_same rfl accepts⟩

/-- All output channels accept the same. -/
theorem Role.accepts_output {r : Role} {o o' : OutputRole} (h : r = .output o) (a : Action) :
    Role.accepts (.output o') a = r.accepts a := by rw [h]; cases a <;> rfl

theorem Role.accepts_input {r : Role} {i j : InputRole} (h : r = .input i) (a : Action) :
    Role.accepts (.input j) a = r.accepts a := by rw [h]; cases a <;> rfl

/-- A record that the effect of a request leaves is sound where the one before was. -/
theorem State.Rewrites.commonSound {old : Option Channel} (w : s.Rewrites old d) (h : ∀ c, old = some c → c.CommonSound) :
    d.CommonSound := by
  cases w with
  | kept => exact h _ rfl
  | bound => exact .of_idle rfl rfl rfl rfl
  | held c => exact (h c rfl).halt nofun
  | cleared c => exact .of_idle rfl rfl rfl rfl
  | frozen c => exact (h c rfl).of_role rfl rfl rfl rfl rfl fun _ => rfl
  | idleLevel c o l role => exact (h c rfl).of_role rfl rfl rfl rfl rfl (Role.accepts_output role)
  | inputSettings c i j role => exact (h c rfl).of_role rfl rfl rfl rfl rfl (Role.accepts_input role)
  | stage c o p w role => exact (h c rfl).of_role rfl rfl rfl rfl rfl (Role.accepts_output role)
  | activate c o p role => exact (h c rfl).of_role rfl rfl rfl rfl rfl (Role.accepts_output role)
  | unstage c o g role => exact (h c rfl).of_role rfl rfl rfl rfl rfl (Role.accepts_output role)
  | startOutput fields c o role rearm => exact (h c rfl).started rearm (Role.accepts_output role)
  | startInput fields c i role rearm => exact (h c rfl).started rearm (Role.accepts_input role)
  | stop c => exact (h c rfl).halt nofun

theorem State.CommonSound.of_same (h : s.CommonSound) (channels : t.channels = s.channels) : t.CommonSound := by
  unfold State.CommonSound
  rw [channels]
  exact h

theorem State.CommonSound.enterHold (h : s.CommonSound) (cause : HoldCause) : (s.enterHold cause).CommonSound := by
  intro x d hd
  rw [State.enterHold_eq] at hd
  have held : heldRecord s.channels[x] = some d := (State.heldChannels_getElem ..).symm.trans hd
  exact (State.Rewrites.of_heldRecord held).commonSound (h x)

end

end Sys2Proof.Machine
end

section
/-! SUPPORT. The event fabric stays sound: sources and targets bound, kinds and actions valid, 32 listener entries at most (R115, R119). -/

namespace Sys2Proof.Machine

section
variable {s t : State} {f f' : Fabric}

/-! ### The number of listener entries -/

theorem entryCount_some (a : Action) : entryCount (some a) = 1 := rfl

/-- Entries that are entries of another table are no more than its. -/
theorem Fabric.entries_length_le (h : ∀ (l : LineId) (d : ChannelId) (a : Action), f'.listeners[l][d] = some a →
    f.listeners[l][d] = some a) : f'.entries.length ≤ f.entries.length := by
  rw [Fabric.entries_length, Fabric.entries_length]
  refine Finset.sum_le_sum fun l _ => Finset.sum_le_sum fun d _ => ?_
  cases e : f'.listeners[l][d] with
  | none => exact Nat.zero_le _
  | some a => rw [h l d a e]

theorem Fabric.withListener_getElem (f : Fabric) (l k : LineId) (d x : ChannelId) (a : Option Action) :
    (f.withListener l d a).listeners[k][x] = if l = k ∧ d = x then a else f.listeners[k][x] := by
  unfold Fabric.withListener
  dsimp only
  rw [getElem_set_fin]
  by_cases at_k : l = k
  · subst at_k
    rw [if_pos rfl, getElem_set_fin]
    simp only [true_and]
  · rw [if_neg at_k, if_neg fun e => at_k e.1]

/-- A new entry is one more. -/
theorem Fabric.entries_length_withListener {l : LineId} {d : ChannelId} (isFree : f.listeners[l][d] = none) (a : Action) :
    (f.withListener l d (some a)).entries.length = f.entries.length + 1 := by
  have one : ∀ (k : LineId) (x : ChannelId), entryCount (f.withListener l d (some a)).listeners[k][x] =
      entryCount f.listeners[k][x] + if k = l then (if x = d then 1 else 0) else 0 := by
    intro k x
    rw [Fabric.withListener_getElem]
    by_cases at_k : l = k <;> by_cases at_x : d = x
    · subst at_k at_x
      simp only [and_self, if_true, isFree]
      rfl
    · simp [at_k, at_x, Ne.symm at_x]
    · simp [at_k, Ne.symm at_k]
    · simp [at_k, Ne.symm at_k]
  simp only [Fabric.entries_length, one, Finset.sum_add_distrib]
  simp

/-! ### Entries and records -/

/-- R115: every emitter's source is bound, in a role that raises the kind. -/
def State.EmittersSound (s : State) : Prop := ∀ (l : LineId) (e : Emitter), s.fabric.emitters[l] = some e →
  ∃ c, s.channels[e.source] = some c ∧ c.role.raises e.kind = true

theorem State.fabricSound_iff :
    s.FabricSound ↔ s.EmittersSound ∧ s.ListenersSound ∧ s.fabric.entries.length ≤ Config.listenerEntries := Iff.rfl

/-- Every bound channel stays bound, in the same role. -/
def State.KeepsRoles (s t : State) : Prop :=
  ∀ (x : ChannelId) (c : Channel), s.channels[x] = some c → ∃ d, t.channels[x] = some d ∧ d.isOutput = c.isOutput

theorem Channel.accepts_congr {c d : Channel} (h : d.isOutput = c.isOutput) (a : Action) : d.role.accepts a = c.role.accepts a := by
  unfold Channel.isOutput at h
  cases hc : c.role <;> cases hd : d.role <;> rw [hc, hd] at h <;> cases a <;> first | rfl | cases h

theorem Channel.raises_congr {c d : Channel} (h : d.isOutput = c.isOutput) (k : EventKind) : d.role.raises k = c.role.raises k := by
  unfold Channel.isOutput at h
  cases hc : c.role <;> cases hd : d.role <;> rw [hc, hd] at h <;> cases k <;> first | rfl | cases h

namespace State.KeepsRoles

theorem of_same (channels : t.channels = s.channels) : s.KeepsRoles t := fun x c hc => ⟨c, by rw [channels, hc], rfl⟩

theorem of_set {ch : ChannelId} {c d : Channel} (hc : s.channels[ch] = some c) (kind : d.isOutput = c.isOutput)
    (channels : t.channels = s.channels.set ch (some d)) : s.KeepsRoles t := by
  intro x e he
  rw [channels, getElem_set_fin]
  split
  case isTrue at_x =>
    subst at_x
    cases hc.symm.trans he
    exact ⟨d, rfl, kind⟩
  case isFalse => exact ⟨e, he, rfl⟩

/-- A FREE channel is bound. -/
theorem of_bound {ch : ChannelId} {d : Channel} (isFree : s.channels[ch] = none)
    (channels : t.channels = s.channels.set ch (some d)) : s.KeepsRoles t := by
  intro x e he
  rw [channels, getElem_set_fin]
  split
  case isTrue at_x =>
    subst at_x
    cases isFree.symm.trans he
  case isFalse => exact ⟨e, he, rfl⟩

theorem of_map (h : ∀ x : ChannelId, t.channels[x].map Channel.isOutput = s.channels[x].map Channel.isOutput) : s.KeepsRoles t := by
  intro x c hc
  have e := h x
  rw [hc, Option.map_some] at e
  exact Option.map_eq_some_iff.mp e

theorem holdEntry (s : State) (cause : HoldCause) : s.KeepsRoles (s.enterHold cause) := by
  intro x c hc
  have held : (s.enterHold cause).channels[x] = heldRecord s.channels[x] := by
    rw [State.enterHold_eq]
    exact State.heldChannels_getElem ..
  rw [held, hc]
  refine ⟨_, rfl, ?_⟩
  dsimp only
  split
  case isTrue => cases hr : c.role <;> simp [Channel.isOutput, Channel.halt, Role.cut, hr]
  case isFalse => rfl

end State.KeepsRoles

/-- The same fabric stays sound where channels stay bound in their roles. -/
theorem State.FabricSound.of_roles (h : s.FabricSound) (fabric : t.fabric = s.fabric) (roles : s.KeepsRoles t) : t.FabricSound := by
  obtain ⟨emitters, listeners, number⟩ := h
  refine ⟨fun l e he => ?_, fun l x a hl => ?_, ?_⟩
  · rw [fabric] at he
    obtain ⟨c, hc, valid⟩ := emitters l e he
    obtain ⟨d, hd, kind⟩ := roles e.source c hc
    exact ⟨d, hd, (Channel.raises_congr kind _).trans valid⟩
  · rw [fabric] at hl
    obtain ⟨c, hc, valid⟩ := listeners l x a hl
    obtain ⟨d, hd, kind⟩ := roles x c hc
    exact ⟨d, hd, (Channel.accepts_congr kind _).trans valid⟩
  · rw [fabric]
    exact number

theorem State.FabricSound.of_same (h : s.FabricSound) (fabric : t.fabric = s.fabric) (channels : t.channels = s.channels) :
    t.FabricSound := h.of_roles fabric (.of_same channels)

theorem State.FabricSound.enterHold (h : s.FabricSound) (cause : HoldCause) : (s.enterHold cause).FabricSound :=
  h.of_roles (by simp) (.holdEntry s cause)

/-- A fabric whose entries are entries of a sound one, at channels that stay bound in their roles. -/
theorem State.FabricSound.of_fewer (h : s.FabricSound)
    (emitters : ∀ (l : LineId) (e : Emitter), t.fabric.emitters[l] = some e → s.fabric.emitters[l] = some e ∧
      ∀ c, s.channels[e.source] = some c → ∃ d, t.channels[e.source] = some d ∧ d.isOutput = c.isOutput)
    (listeners : ∀ (l : LineId) (x : ChannelId) (a : Action), t.fabric.listeners[l][x] = some a →
      s.fabric.listeners[l][x] = some a ∧ ∀ c, s.channels[x] = some c → ∃ d, t.channels[x] = some d ∧ d.isOutput = c.isOutput) :
    t.FabricSound := by
  obtain ⟨emittersSound, listenersSound, number⟩ := h
  refine ⟨fun l e he => ?_, fun l x a hl => ?_, ?_⟩
  · obtain ⟨he, stays⟩ := emitters l e he
    obtain ⟨c, hc, valid⟩ := emittersSound l e he
    obtain ⟨d, hd, kind⟩ := stays c hc
    exact ⟨d, hd, (Channel.raises_congr kind _).trans valid⟩
  · obtain ⟨hl, stays⟩ := listeners l x a hl
    obtain ⟨c, hc, valid⟩ := listenersSound l x a hl
    obtain ⟨d, hd, kind⟩ := stays c hc
    exact ⟨d, hd, (Channel.accepts_congr kind _).trans valid⟩
  · exact (Fabric.entries_length_le fun l x a hl => (listeners l x a hl).1).trans number

/-- R36: the entries of a channel that becomes FREE go with it. -/
theorem State.FabricSound.freed (h : s.FabricSound) (ch : ChannelId) (c : Channel) : (s.freeChannel ch c).FabricSound := by
  have stays {x : ChannelId} (other : x ≠ ch) : ∀ c', s.channels[x] = some c' →
      ∃ d, (s.freeChannel ch c).channels[x] = some d ∧ d.isOutput = c'.isOutput := fun c' hc' =>
    ⟨c', by rw [State.freeChannel_channels, getElem_set_fin, if_neg (Ne.symm other), hc'], rfl⟩
  obtain ⟨_, _, emitters, listeners⟩ := s.freeChannel_freed ch c
  refine h.of_fewer (fun l e he => ?_) fun l x a hl => ?_
  · obtain ⟨kept, other⟩ := (emitters l e).mp he
    exact ⟨kept, stays other⟩
  · obtain ⟨kept, other⟩ := (listeners l x a).mp hl
    exact ⟨kept, stays other⟩

/-- R129: the entries that serve frozen channels stay, and so do those channels. -/
theorem State.FabricSound.warm (h : s.FabricSound) : s.warmReset.FabricSound := by
  have stays {x : ChannelId} (frozen : s.isFrozen x = true) : ∀ c, s.channels[x] = some c →
      ∃ d, s.warmReset.channels[x] = some d ∧ d.isOutput = c.isOutput := by
    intro c hc
    have f : c.frozen = true := by simpa only [State.isFrozen, hc] using frozen
    refine ⟨c.cleared s.time, ?_, ?_⟩
    · rw [State.warmReset_channels, getElem_ofFn_fin, hc]
      exact if_pos f
    · unfold Channel.isOutput Channel.cleared Role.cleared
      cases c.role <;> rfl
  refine h.of_fewer (fun l e he => ?_) fun l x a hl => ?_
  · rw [State.warmReset_fabric] at he
    unfold State.resetFabric at he
    dsimp only at he
    rw [getElem_ofFn_fin] at he
    split at he
    case h_1 => cases he
    case h_2 e' he' =>
      split at he
      case isTrue frozen =>
        cases he
        exact ⟨he', stays frozen⟩
      case isFalse => cases he
  · rw [State.warmReset_fabric] at hl
    unfold State.resetFabric at hl
    dsimp only at hl
    rw [getElem_ofFn_fin, getElem_ofFn_fin] at hl
    split at hl
    case isTrue frozen => exact ⟨hl, stays frozen⟩
    case isFalse => cases hl

/-- R117, R118: one line's emitter entry is written or removed. -/
theorem State.FabricSound.withEmitter (h : s.FabricSound) (l : LineId) (entry : Option Emitter)
    (sound : ∀ e, entry = some e → ∃ c, s.channels[e.source] = some c ∧ c.role.raises e.kind = true) :
    State.FabricSound { s with fabric := s.fabric.withEmitter l entry } := by
  obtain ⟨emitters, listeners, number⟩ := h
  refine ⟨fun k e he => ?_, listeners, number⟩
  have he : (s.fabric.emitters.set l entry)[k] = some e := he
  rw [getElem_set_fin] at he
  split at he
  case isTrue => exact sound e he
  case isFalse => exact emitters k e he

/-- R120: an entry joins the listener table while it has room. -/
theorem State.FabricSound.withListener (h : s.FabricSound) {l : LineId} {ch : ChannelId} {a : Action} {c : Channel}
    (hc : s.channels[ch] = some c) (valid : c.role.accepts a = true) (isFree : s.fabric.listeners[l][ch] = none)
    (room : s.fabric.entries.length < Config.listenerEntries) :
    State.FabricSound { s with fabric := s.fabric.withListener l ch (some a) } := by
  obtain ⟨emitters, listeners, _⟩ := h
  refine ⟨emitters, fun k x b hb => ?_, ?_⟩
  · rw [Fabric.withListener_getElem] at hb
    split at hb
    case isTrue at_x =>
      obtain ⟨_, rfl⟩ := at_x
      cases hb
      exact ⟨c, hc, valid⟩
    case isFalse => exact listeners k x b hb
  · show (s.fabric.withListener l ch (some a)).entries.length ≤ _
    rw [Fabric.entries_length_withListener isFree]
    exact room

/-- R121: an entry leaves the listener table. -/
theorem State.FabricSound.withoutListener (h : s.FabricSound) (l : LineId) (ch : ChannelId) :
    State.FabricSound { s with fabric := s.fabric.withListener l ch none } := by
  refine h.of_fewer (fun k e he => ⟨he, fun c hc => ⟨c, hc, rfl⟩⟩) fun k x b hb => ⟨?_, fun c hc => ⟨c, hc, rfl⟩⟩
  rw [Fabric.withListener_getElem] at hb
  split at hb
  case isTrue => cases hb
  case isFalse => exact hb

theorem Channel.isOutput_of_output {c : Channel} {o o' : OutputRole} (h : c.role = .output o) :
    Channel.isOutput { c with role := .output o' } = c.isOutput := by simp [Channel.isOutput, h]

theorem Channel.isOutput_of_input {c : Channel} {i j : InputRole} (h : c.role = .input i) :
    Channel.isOutput { c with role := .input j } = c.isOutput := by simp [Channel.isOutput, h]

theorem Channel.isOutput_started_output {c : Channel} {o : OutputRole} (h : c.role = .output o) (f : StartFields)
    (o' : OutputRole) : (c.started f (.output o')).isOutput = c.isOutput := by simp [Channel.isOutput, Channel.started, h]

theorem Channel.isOutput_started_input {c : Channel} {i : InputRole} (h : c.role = .input i) (f : StartFields)
    (j : InputRole) : (c.started f (.input j)).isOutput = c.isOutput := by simp [Channel.isOutput, Channel.started, h]

theorem Channel.isOutput_halt (c : Channel) (r : HaltReason) : (c.halt r).isOutput = c.isOutput := by
  unfold Channel.isOutput Channel.halt Role.cut
  cases c.role <;> rfl

theorem Channel.isOutput_cleared (c : Channel) (now : Time) : (c.cleared now).isOutput = c.isOutput := by
  unfold Channel.isOutput Channel.cleared Role.cleared
  cases c.role <;> rfl

theorem State.Effect.fabricSound (h : s.FabricSound) (e : s.Effect t) : t.FabricSound := by
  cases e with
  | warm => exact h.warm
  | holdEntry => exact State.FabricSound.enterHold (s := s.withHoldFlag true) h _
  | bind ch r p tb role isFree => exact h.of_roles rfl (.of_bound (d := Channel.bound r p tb s.time) isFree rfl)
  | becomesFree ch c => exact h.freed ch c
  | freeze ch c hc => exact h.of_roles rfl (.of_set (d := { c with frozen := true }) hc rfl rfl)
  | clear ch c hc => exact h.of_roles rfl (.of_set (d := c.cleared s.time) hc (c.isOutput_cleared s.time) rfl)
  | idleLevel ch c o l hc role =>
    exact h.of_roles rfl (.of_set (d := { c with role := .output { o with idleLevel := l } }) hc (Channel.isOutput_of_output role) rfl)
  | inputSettings ch c i j hc role =>
    exact h.of_roles rfl (.of_set (d := { c with role := .input j }) hc (Channel.isOutput_of_input role) rfl)
  | stage ch c o p w hc role =>
    exact h.of_roles rfl (.of_set (d := { c with role := .output (o.assignStaged p w) }) hc (Channel.isOutput_of_output role) rfl)
  | activate ch c o p hc role =>
    exact h.of_roles rfl (.of_set (d := { c with role := .output (o.assignActive p) }) hc (Channel.isOutput_of_output role) rfl)
  | unstage ch c o g hc role =>
    exact h.of_roles rfl (.of_set (d := { c with role := .output { o with staged := none } }) hc (Channel.isOutput_of_output role) rfl)
  | startOutput f c o hc role =>
    have fabric : (s.startOutput f c o).fabric = s.fabric := by
      unfold State.startOutput
      split <;> rfl
    exact h.of_roles fabric (.of_set (d := c.started f (.output o.started)) hc (Channel.isOutput_started_output role f _)
      (s.startOutput_channels f c o))
  | startInput f c i hc role =>
    exact h.of_roles rfl (.of_set (d := c.started f (.input i.cleared)) hc (Channel.isOutput_started_input role f _) rfl)
  | stop ch c hc => exact h.of_roles rfl (.of_set (d := c.halt .request) hc (c.isOutput_halt .request) rfl)
  | emitter l e c bound valid => exact h.withEmitter l (some e) fun e' he' => by cases he'; exact ⟨c, bound, valid⟩
  | noEmitter l => exact h.withEmitter l none fun _ he => nomatch he
  | listener l ch a c bound valid unfrozen isFree room => exact h.withListener bound valid isFree room
  | noListener l ch => exact h.withoutListener l ch
  | _ => exact h.of_same rfl rfl

/-! ### Every step -/

/-- The fabric and the records of all channels together: deliveries come from listeners. -/
def State.LinkedSound (s : State) : Prop := s.FabricSound ∧ s.CommonSound

theorem State.LinkedSound.of_same (h : s.LinkedSound) (fabric : t.fabric = s.fabric) (channels : t.channels = s.channels) :
    t.LinkedSound := ⟨h.1.of_same fabric channels, h.2.of_same channels⟩

theorem State.LinkedSound.enterHold (h : s.LinkedSound) (cause : HoldCause) : (s.enterHold cause).LinkedSound :=
  ⟨h.1.enterHold cause, h.2.enterHold cause⟩

theorem State.LinkedSound.changePinHold (h : s.LinkedSound) : s.changePinHold.LinkedSound := by
  rcases s.changePinHold_cases with ⟨_, _, e⟩ | ⟨_, _, e⟩ | ⟨_, p, e⟩ <;> rw [e]
  · exact State.LinkedSound.enterHold (s := s.withPinHold .asserted) h _
  · exact h
  · exact h

theorem State.linkedSound_kept : KeptByBlocks State.LinkedSound where
  same _ _ e h := h.of_same e.fabric e.channels
  effect _ _ h e := ⟨e.fabricSound h.1, fun x _ hd => (e.rewrites hd).commonSound (h.2 x)⟩
  tick s ch y h :=
    have plays := State.Plays.tickChannel s ch y
    ⟨h.1.of_roles plays.fabric (.of_map plays.isOutput), h.2.tick (State.fabricSound_iff.mp h.1).2.1 ch y⟩
  pinHold _ h := h.changePinHold
  runCount _ _ h := h
  clock _ h := h
  taken _ _ h := h
  cold _ := by
    refine ⟨⟨fun l e he => ?_, fun l x a hl => ?_, (by decide : Fabric.empty.entries.length ≤ Config.listenerEntries)⟩,
      fun x c hc => ?_⟩
    · simp [State.cold, Fabric.empty] at he
    · simp [State.cold, Fabric.empty] at hl
    · simp [State.cold] at hc

end

/-- Settles O57: the fabric and the common fields of the records are kept together by every step. -/
theorem fabricAndRecordsStaySound : Obligations.FabricAndRecordsStaySound :=
  fun _ _ fabric common e => State.linkedSound_kept.step ⟨fabric, common⟩ e

end Sys2Proof.Machine
end

section
/-! SUPPORT. The play of every output channel stays sound through a tick and through the effects of requests (R42, R52 to R59, R74). -/

namespace Sys2Proof.Machine

section
variable {s t : State} {c d : Channel} {o : OutputRole} {b : Bool} {f : PatternId → Option Pattern}

/-- An output channel's play fields in an activity, where `f` gives the patterns of the rows. -/
structure OutputRole.Sound (f : PatternId → Option Pattern) (a : Activity) (o : OutputRole) : Prop where
  staged : o.staged ≠ none → o.active ≠ none
  inPlay : a = .waiting ∨ a = .running → o.active ≠ none
  waiting : a = .waiting → o.segIndex = 0 ∧ o.reps = 0
  reps : o.reps ≤ Config.countMax
  done : o.doneLevel ≠ none ↔ a = .done
  left : o.ticksLeft ≠ none ↔ a = .running
  inside : ∀ n, o.ticksLeft = some n → ∃ q g, o.activeIn f = some q ∧ q.segments[o.segIndex]? = some g ∧ 1 ≤ n ∧ n ≤ g.duration ∧
    (q.repeatCount = 0 ∨ o.reps < q.repeatCount)

/-- The play of the record, where it is an output channel's. -/
def Channel.PlaySoundIn (f : PatternId → Option Pattern) (c : Channel) : Prop :=
  ∀ o, c.role = .output o → o.Sound f c.activity

theorem Channel.outputSound_iff (c : Channel) (t : PatternStore) : c.OutputSound t ↔ c.PlaySoundIn t.patterns := by
  unfold Channel.OutputSound Channel.PlaySoundIn
  cases c.role with
  | input i => exact iff_of_true trivial fun _ ho => nomatch ho
  | output o =>
    constructor
    · rintro ⟨staged, inPlay, waiting, reps, done, left, inside⟩ o' ho
      cases ho
      refine ⟨staged, fun h => inPlay (decide_eq_true h), waiting, reps, done, left, fun n hn => ?_⟩
      obtain ⟨p, q, g, active, pattern, segment, rest⟩ := inside n hn
      exact ⟨q, g, by rw [OutputRole.activeIn, active]; exact pattern, segment, rest⟩
    · intro sound
      obtain ⟨staged, inPlay, waiting, reps, done, left, inside⟩ := sound o rfl
      refine ⟨staged, fun h => inPlay (of_decide_eq_true h), waiting, reps, done, left, fun n hn => ?_⟩
      obtain ⟨q, g, active, rest⟩ := inside n hn
      obtain ⟨p, hp, pattern⟩ := Option.bind_eq_some_iff.mp active
      exact ⟨p, q, g, hp, pattern, rest⟩

/-- Every reference of the role is to a DEFINED row. -/
structure OutputRole.Defined (f : PatternId → Option Pattern) (o : OutputRole) : Prop where
  active : ∀ p, o.active = some p → f p ≠ none
  staged : ∀ g, o.staged = some g → f g.pattern ≠ none

/-- Every reference of the record is to a DEFINED row. -/
def Channel.DefinedIn (f : PatternId → Option Pattern) (c : Channel) : Prop := ∀ o, c.role = .output o → o.Defined f

/-- Every pattern is within its ranges (R2). -/
def PatternsSound (f : PatternId → Option Pattern) : Prop := ∀ p q, f p = some q → q.Sound

theorem Channel.PlaySoundIn.of_input {i : InputRole} (h : d.role = .input i) : d.PlaySoundIn f := by
  intro o ho
  rw [h] at ho
  cases ho

theorem Channel.DefinedIn.of_input {i : InputRole} (h : d.role = .input i) : d.DefinedIn f := by
  intro o ho
  rw [h] at ho
  cases ho

/-- Outside play: nothing is left of a segment. -/
theorem OutputRole.Sound.of_cut {a a' : Activity} (h : o.Sound f a) (hd : a ≠ .done) (hd' : a' ≠ .done) (hw : a' ≠ .waiting)
    (hr : a' ≠ .running) : OutputRole.Sound f a' { o with ticksLeft := none } where
  staged := h.staged
  inPlay e := by rcases e with e | e <;> contradiction
  waiting e := absurd e hw
  reps := h.reps
  done := iff_of_false (fun e => hd (h.done.mp e)) hd'
  left := iff_of_false (fun e => e rfl) hr
  inside _ hn := by cases hn

theorem OutputRole.Sound.of_fresh {a : Activity} (l : Level) (hd : a ≠ .done) (hw : a ≠ .waiting) (hr : a ≠ .running) :
    (OutputRole.fresh l).Sound f a where
  staged e := absurd rfl e
  inPlay e := by rcases e with e | e <;> contradiction
  waiting e := absurd e hw
  reps := Nat.zero_le _
  done := iff_of_false (fun e => e rfl) hd
  left := iff_of_false (fun e => e rfl) hr
  inside _ hn := by cases hn

theorem Channel.activity_of_inPlay (h : c.inPlay = true) : c.activity ≠ .done ∧ c.activity ≠ .idle ∧ c.activity ≠ .halted := by
  rcases of_decide_eq_true h with e | e <;> rw [e] <;> exact ⟨nofun, nofun, nofun⟩

theorem Channel.PlaySoundIn.halt (h : c.PlaySoundIn f) (inPlay : c.inPlay = true) (r : HaltReason) : (c.halt r).PlaySoundIn f := by
  intro o' ho
  cases hr : c.role with
  | input i => simp [Channel.halt, hr, Role.cut] at ho
  | output o =>
    have cut : o' = { o with ticksLeft := none } := by simpa [Channel.halt, hr, Role.cut] using ho.symm
    rw [cut]
    exact (h o hr).of_cut (Channel.activity_of_inPlay inPlay).1 nofun nofun nofun

/-! ### The moves of a tick -/

/-- A segment of a sound pattern begins in RUNNING, with repetitions to go. -/
theorem OutputRole.Sound.of_begun {q : Pattern} {k reps : Nat} {o' : OutputRole} (fs : PatternsSound f) (active : o.activeIn f = some q)
    (segment : k < q.segments.length) (count : reps ≤ Config.countMax) (more : q.repeatCount = 0 ∨ reps < q.repeatCount)
    (done : o.doneLevel = none) (eq : o' = { o.begin q k with reps := reps }) : o'.Sound f .running := by
  obtain ⟨g, hg⟩ : ∃ g, q.segments[k]? = some g := ⟨_, List.getElem?_eq_getElem segment⟩
  obtain ⟨p, hp, pattern⟩ := Option.bind_eq_some_iff.mp active
  obtain ⟨_, _, _, durations⟩ := fs p q pattern
  rw [o.begin_of_some hg] at eq
  subst eq
  exact {
    staged := fun _ => by rw [hp]; exact nofun
    inPlay := fun _ => by rw [hp]; exact nofun
    waiting := nofun
    reps := count
    done := by simp [done]
    left := by simp
    inside := fun n hn => by
      cases hn
      exact ⟨q, g, active, hg, (durations g (List.mem_of_getElem? hg)).1, le_refl _, more⟩ }

theorem PatternsSound.nonempty (fs : PatternsSound f) {p : PatternId} {q : Pattern} (h : f p = some q) : 0 < q.segments.length :=
  (fs p q h).1

theorem PatternsSound.nonempty_of_active (fs : PatternsSound f) {q : Pattern} (h : o.activeIn f = some q) :
    0 < q.segments.length := by
  obtain ⟨p, _, pattern⟩ := Option.bind_eq_some_iff.mp h
  exact fs.nonempty pattern

theorem zero_lt_or {n : Nat} : n = 0 ∨ 0 < n := Nat.eq_zero_or_pos n

/-- Out of DONE there is no done level. -/
theorem OutputRole.Sound.no_done {a : Activity} (h : o.Sound f a) (ha : a ≠ .done) : o.doneLevel = none :=
  not_not.mp fun e => ha (h.done.mp e)

/-- Every move of a tick keeps the play sound. -/
theorem Channel.Moves.playSound (fs : PatternsSound f) (m : Channel.Moves b f c d) (h : c.PlaySoundIn f) (defined : c.DefinedIn f) :
    d.PlaySoundIn f := by
  cases m with
  | deliveries => exact h
  | halt _ r inPlay => exact h.halt inPlay r
  | enterInput _ _ i waiting role => exact .of_input (i := i) role
  | enterOutput _ _ o waiting role =>
    intro o' ho
    cases ho
    have p := h o role
    rw [waiting] at p
    obtain ⟨k, hk⟩ := Option.ne_none_iff_exists'.mp (p.inPlay (.inl rfl))
    obtain ⟨q, hq⟩ := Option.ne_none_iff_exists'.mp ((defined o role).active k hk)
    have active : o.activeIn f = some q := by rw [OutputRole.activeIn, hk]; exact hq
    refine .of_begun (k := 0) (reps := o.reps) fs active (fs.nonempty hq) p.reps ?_ (p.no_done nofun) ?_
    · rw [(p.waiting rfl).2]
      exact zero_lt_or
    · rw [active, OutputRole.beginFirst, Option.elim_some, ← o.begin_reps q 0]
  | countSegment _ o n running role left more =>
    intro o' ho
    cases ho
    have p := h o role
    exact { p with
      left := iff_of_true nofun running
      inside := fun m hm => by
        cases hm
        obtain ⟨q, g, active, segment, _, upper, rest⟩ := p.inside n left
        exact ⟨q, g, active, segment, by omega, by omega, rest⟩ }
  | restart _ o q running role active =>
    intro o' ho
    cases ho
    have p := h o role
    rw [running] at p ⊢
    exact .of_begun fs active (fs.nonempty_of_active active) (Nat.zero_le _) zero_lt_or (p.no_done nofun) rfl
  | next _ o q running role active more =>
    intro o' ho
    cases ho
    have p := h o role
    rw [running] at p ⊢
    obtain ⟨n, hn⟩ := Option.ne_none_iff_exists'.mp (p.left.mpr rfl)
    obtain ⟨q', g, active', _, _, _, rest⟩ := p.inside n hn
    cases active.symm.trans active'
    exact .of_begun fs active more p.reps rest (p.no_done nofun) rfl
  | again _ o q running role active more =>
    intro o' ho
    cases ho
    have p := h o role
    rw [running] at p ⊢
    exact .of_begun fs active (fs.nonempty_of_active active) (countUp_le _) more (p.no_done nofun) rfl
  | swap _ o g running role staged =>
    intro o' ho
    cases ho
    have p := h o role
    rw [running] at p ⊢
    obtain ⟨q, hq⟩ := Option.ne_none_iff_exists'.mp ((defined o role).staged g staged)
    refine .of_begun (o := { o with active := some g.pattern, staged := none, segIndex := 0, reps := 0 }) (k := 0) fs hq
      (fs.nonempty hq) (Nat.zero_le _) zero_lt_or (p.no_done nofun) ?_
    rw [OutputRole.swappedIn, hq, OutputRole.beginFirst, Option.elim_some]
    exact congrArg (fun r => { OutputRole.begin _ q 0 with reps := r }) (OutputRole.begin_reps _ q 0)
  | finish _ o q running role =>
    intro o' ho
    cases ho
    have p := h o role
    exact {
      staged := p.staged
      inPlay := fun e => by rcases e with e | e <;> cases e
      waiting := nofun
      reps := countUp_le _
      done := iff_of_true nofun rfl
      left := iff_of_false (fun e => e rfl) nofun
      inside := nofun }
  | rearmOutput _ o running role =>
    intro o' ho
    cases ho
    have p := h o role
    exact {
      staged := p.staged
      inPlay := fun _ => p.inPlay (.inr running)
      waiting := fun _ => ⟨rfl, rfl⟩
      reps := Nat.zero_le _
      done := iff_of_false (fun e => e (p.no_done (by rw [running]; exact nofun))) nofun
      left := iff_of_false (fun e => e rfl) nofun
      inside := nofun }
  | limit _ i time running role => exact .of_input (i := { i.captured time with qual := none, timeoutLeft := none }) rfl
  | _ => exact .of_input rfl

/-- A role with the references of another. -/
theorem OutputRole.Defined.of_same {o' : OutputRole} (h : o.Defined f) (active : o'.active = o.active)
    (staged : o'.staged = o.staged) : o'.Defined f := ⟨by rw [active]; exact h.active, by rw [staged]; exact h.staged⟩

theorem Channel.DefinedIn.of_output {o' : OutputRole} (h : c.DefinedIn f) (role : c.role = .output o) (role' : d.role = .output o')
    (active : o'.active = o.active) (staged : o'.staged = o.staged) : d.DefinedIn f := by
  intro x hx
  rw [role'] at hx
  cases hx
  exact (h o role).of_same active staged

theorem Channel.DefinedIn.halt (h : c.DefinedIn f) (r : HaltReason) : (c.halt r).DefinedIn f := by
  cases hr : c.role with
  | input i => exact .of_input (i := { i with qual := none, timeoutLeft := none }) (by simp only [Channel.halt, hr, Role.cut])
  | output o => exact h.of_output (o' := { o with ticksLeft := none }) hr (by simp only [Channel.halt, hr, Role.cut]) rfl rfl

/-- Every move of a tick keeps the references to DEFINED rows. -/
theorem Channel.Moves.defined (m : Channel.Moves b f c d) (h : c.DefinedIn f) : d.DefinedIn f := by
  cases m with
  | deliveries => exact h
  | halt _ r => exact h.halt r
  | enterInput _ _ i waiting role => exact .of_input (i := i) role
  | enterOutput _ _ o waiting role =>
    obtain ⟨_, active, staged⟩ := OutputRole.beginFirst_keeps o (o.activeIn f)
    exact h.of_output role rfl active staged
  | countSegment _ o n running role => exact h.of_output role rfl rfl rfl
  | restart _ o q running role => exact h.of_output role rfl (o.begin_active q 0) (o.begin_staged q 0)
  | next _ o q running role => exact h.of_output role rfl (o.begin_active q _) (o.begin_staged q _)
  | again _ o q running role => exact h.of_output role rfl (o.begin_active q 0) (o.begin_staged q 0)
  | swap _ o g running role staged =>
    intro x hx
    cases hx
    obtain ⟨_, active, empty⟩ := OutputRole.beginFirst_keeps
      ({ o with active := some g.pattern, staged := none, segIndex := 0, reps := 0 } : OutputRole) (f g.pattern)
    refine ⟨fun p hp => ?_, fun w hw => ?_⟩
    · cases active.symm.trans hp
      exact (h o role).staged g staged
    · cases empty.symm.trans hw
  | finish _ o q running role => exact h.of_output role rfl rfl rfl
  | rearmOutput _ o running role => exact h.of_output role rfl rfl rfl
  | limit _ i time running role => exact .of_input (i := { i.captured time with qual := none, timeoutLeft := none }) rfl
  | _ => exact .of_input rfl

theorem Channel.Travels.playSound (fs : PatternsSound f) (m : Channel.Travels b f c d) (h : c.PlaySoundIn f)
    (defined : c.DefinedIn f) : d.PlaySoundIn f := by
  have both : d.PlaySoundIn f ∧ d.DefinedIn f := by
    induction m with
    | refl => exact ⟨h, defined⟩
    | tail _ m ih => exact ⟨m.playSound fs ih.1 ih.2, m.defined ih.2⟩
  exact both.1

/-! ### The effects of requests -/

theorem Channel.PlaySoundIn.of_output {o' : OutputRole} (role : d.role = .output o') (h : o'.Sound f d.activity) : d.PlaySoundIn f := by
  intro x hx
  rw [role] at hx
  cases hx
  exact h

theorem Channel.PlaySoundIn.cleared (c : Channel) (now : Time) : (c.cleared now).PlaySoundIn f := by
  intro o' ho
  cases hr : c.role with
  | input i => simp [Channel.cleared, hr, Role.cleared] at ho
  | output o =>
    have e : o' = OutputRole.fresh o.idleLevel := by simpa [Channel.cleared, hr, Role.cleared] using ho.symm
    rw [e]
    exact .of_fresh _ nofun nofun nofun

/-- A record that the effect of a request leaves is sound where the one before was. -/
theorem State.Rewrites.playSound {old : Option Channel} (w : s.Rewrites old d) (h : ∀ c, old = some c → c.PlaySoundIn f) :
    d.PlaySoundIn f := by
  cases w with
  | kept => exact h _ rfl
  | bound r p tb role =>
    rcases role with rfl | rfl
    · exact .of_output rfl (.of_fresh _ nofun nofun nofun)
    · exact .of_input rfl
  | held c output inPlay => exact (h c rfl).halt inPlay _
  | cleared c => exact .cleared c _
  | frozen c => exact h c rfl
  | idleLevel c o l role =>
    obtain ⟨staged, inPlay, waiting, reps, done, left, inside⟩ := h c rfl o role
    exact .of_output rfl ⟨staged, inPlay, waiting, reps, done, left, inside⟩
  | stage c o p w role running =>
    obtain ⟨_, inPlay, waiting, reps, done, left, inside⟩ := h c rfl o role
    exact .of_output rfl ⟨fun _ => inPlay (.inr running), inPlay, waiting, reps, done, left, inside⟩
  | activate c o p role notRunning =>
    obtain ⟨_, _, waiting, reps, done, left, _⟩ := h c rfl o role
    exact .of_output rfl ⟨fun _ => nofun, fun _ => nofun, waiting, reps, done, left,
      fun n hn => absurd (left.mp (by rw [show o.ticksLeft = some n from hn]; exact nofun)) notRunning⟩
  | unstage c o g role =>
    obtain ⟨_, inPlay, waiting, reps, done, left, inside⟩ := h c rfl o role
    exact .of_output rfl ⟨fun e => absurd rfl e, inPlay, waiting, reps, done, left, inside⟩
  | startOutput fields c o role rearm notHeld resting pattern =>
    have active : o.started.active ≠ none := by
      unfold OutputRole.started
      cases staged : o.staged with
      | none => exact pattern.resolve_right fun e => e staged
      | some g => exact nofun
    exact .of_output rfl ⟨fun _ => active, fun _ => active, fun _ => ⟨rfl, rfl⟩, Nat.zero_le _,
      iff_of_false (fun e => e rfl) nofun, iff_of_false (fun e => e rfl) nofun, nofun⟩
  | stop c inPlay => exact (h c rfl).halt inPlay _
  | _ => exact .of_input rfl

end

end Sys2Proof.Machine
end

section
/-! SUPPORT. The pool's accounting and the user counts through a tick and through the effects of requests (R2, R5, R14 to R16). -/

namespace Sys2Proof.Machine

section
variable {s t : State} {ch : ChannelId} {c d : Channel} {o : OutputRole} {a b : PatternStore} {taken given : PatternId → Nat}

/-! ### References taken and given up -/

theorem PatternStore.Recounted.patterns (h : a.Recounted b taken given) : b.patterns = a.patterns := by
  funext p
  rw [PatternStore.patterns, h.2 p]
  rfl

theorem PatternStore.Recounted.users (h : a.Recounted b taken given) (p : PatternId) :
    (b.rows[p]).users = (a.rows[p]).users + taken p - given p := by rw [h.2 p]

/-- R5 speaks of the patterns and the two counts alone. -/
theorem PatternStore.Accounted.of_patterns (h : a.Accounted) (free : b.free = a.free) (defined : b.defined = a.defined)
    (patterns : b.patterns = a.patterns) : b.Accounted := by
  have rows (p : PatternId) : (b.rows[p]).pattern = (a.rows[p]).pattern := congrFun patterns p
  unfold PatternStore.Accounted PatternRow.slots at h ⊢
  simp only [rows, free, defined]
  exact h

theorem PatternStore.Accounted.recounted (h : a.Accounted) (r : a.Recounted b taken given) : b.Accounted :=
  h.of_patterns (by rw [r.1]) (by rw [r.1]) r.patterns

/-- An EMPTY row that no reference is taken to keeps user count 0. -/
theorem PatternStore.Sound.recounted (h : a.Sound) (r : a.Recounted b taken given)
    (defined : ∀ p, a.patterns p = none → taken p = 0) : b.Sound := by
  intro p
  have sound := h p
  rw [show (b.rows[p]).pattern = (a.rows[p]).pattern from congrFun r.patterns p]
  cases pattern : (a.rows[p]).pattern with
  | none =>
    rw [pattern] at sound
    show (b.rows[p]).users = 0
    rw [r.users, show (a.rows[p]).users = 0 from sound, defined p pattern]
    exact Nat.zero_sub _
  | some q =>
    rw [pattern] at sound
    exact sound

theorem PatternStore.Sound.patternsSound (h : a.Sound) : PatternsSound a.patterns := by
  intro p q hq
  have sound := h p
  rw [show (a.rows[p]).pattern = some q from hq] at sound
  exact sound

theorem PatternStore.Sound.users_of_empty (h : a.Sound) {p : PatternId} (empty : (a.rows[p]).pattern = none) :
    (a.rows[p]).users = 0 := by
  have sound := h p
  rw [empty] at sound
  exact sound

/-! ### Sums of references -/

/-- The references of all channels when one record is written: its own are exchanged. -/
theorem sum_refs_set (v : Vector (Option Channel) 16) (ch : ChannelId) (x : Option Channel) (p : PatternId) :
    (∑ y : ChannelId, channelRefs (v.set ch x)[y] p) + channelRefs v[ch] p = (∑ y : ChannelId, channelRefs v[y] p) + channelRefs x p := by
  rw [← Finset.add_sum_erase _ _ (Finset.mem_univ ch), ← Finset.add_sum_erase (a := ch) Finset.univ (fun y => channelRefs v[y] p)
    (Finset.mem_univ ch), getElem_set_self_fin]
  have others : ∑ y ∈ Finset.univ.erase ch, channelRefs (v.set ch x)[y] p = ∑ y ∈ Finset.univ.erase ch, channelRefs v[y] p :=
    Finset.sum_congr rfl fun y hy => by rw [getElem_set_fin, if_neg (Finset.ne_of_mem_erase hy).symm]
  rw [others]
  omega

theorem refs_le_sum (v : Vector (Option Channel) 16) (ch : ChannelId) (p : PatternId) :
    channelRefs v[ch] p ≤ ∑ y : ChannelId, channelRefs v[y] p :=
  Finset.single_le_sum (f := fun y : ChannelId => channelRefs v[y] p) (fun _ _ => Nat.zero_le _) (Finset.mem_univ ch)

/-- The pool is accounted for, and the rows and their user counts are sound. -/
structure State.StoreSound (s : State) : Prop where
  accounted : s.store.Accounted
  sound : s.store.Sound
  counted : s.UsersCounted

/-- Records of the same references, and the same store. -/
theorem State.StoreSound.of_refs (h : s.StoreSound) (store : t.store = s.store)
    (refs : ∀ (x : ChannelId) (p : PatternId), channelRefs t.channels[x] p = channelRefs s.channels[x] p) : t.StoreSound where
  accounted := by rw [store]; exact h.accounted
  sound := by rw [store]; exact h.sound
  counted p := by
    rw [store, h.counted p]
    exact Finset.sum_congr rfl fun x _ => (refs x p).symm

/-- One record is written, and the user counts follow what its references change by. -/
theorem State.StoreSound.recount (h : s.StoreSound) {x : Option Channel} (channels : t.channels = s.channels.set ch x)
    (store : s.store.Recounted t.store taken given)
    (balance : ∀ p, channelRefs x p + given p = channelRefs s.channels[ch] p + taken p)
    (defined : ∀ p, s.store.patterns p = none → taken p = 0) : t.StoreSound where
  accounted := h.accounted.recounted store
  sound := h.sound.recounted store defined
  counted p := by
    have exchanged := sum_refs_set s.channels ch x p
    have bound := refs_le_sum s.channels ch p
    have counted := h.counted p
    have balanced := balance p
    rw [store.users p, channels]
    omega

/-- One record is written with the references of the one before, and the store is kept. -/
theorem State.StoreSound.of_set (h : s.StoreSound) (hc : s.channels[ch] = some c) (refs : ∀ p, d.role.refs p = c.role.refs p)
    (channels : t.channels = s.channels.set ch (some d)) (store : t.store = s.store) : t.StoreSound := by
  refine h.of_refs store fun x p => ?_
  rw [channels, getElem_set_fin]
  split
  case isTrue at_x =>
    rw [← at_x, hc]
    exact refs p
  case isFalse => rfl

/-- The references of every record are to DEFINED rows. -/
theorem State.StoreSound.definedIn (h : s.StoreSound) (hc : s.channels[ch] = some c) : c.DefinedIn s.store.patterns := by
  intro o ho
  have used (p : PatternId) (ref : 0 < c.role.refs p) : s.store.patterns p ≠ none := by
    intro empty
    have users := h.sound.users_of_empty empty
    have counted := h.counted p
    have bound := refs_le_sum s.channels ch p
    rw [hc] at bound
    have bound : c.role.refs p ≤ _ := bound
    omega
  rw [ho] at used
  refine ⟨fun p hp => used p ?_, fun g hg => used g.pattern ?_⟩
  · simp only [Role.refs, fieldRefs, hp, if_true]
    omega
  · simp only [Role.refs, fieldRefs, hg, Option.map_some, if_true]
    omega

/-! ### A tick -/

theorem channelRefs_place (s : State) (l : LineId) (x : ChannelId) (p : PatternId) :
    channelRefs (s.placeDeliveries l).channels[x] p = channelRefs s.channels[x] p := by
  cases hc : s.channels[x] with
  | none => rw [State.placeDeliveries_none l hc]
  | some c =>
    obtain ⟨ds, placed⟩ := State.placeDeliveries_some l hc
    rw [placed]
    rfl

theorem Role.refs_of_output {r : Role} (h : r = .output o) (p : PatternId) :
    r.refs p = fieldRefs o.active p + fieldRefs (o.staged.map Staged.pattern) p := by rw [h]; rfl

theorem OutputRole.refs_swapped (t : PatternStore) (g : Staged) (p : PatternId) :
    (Role.output (o.swapped t g)).refs p = fieldRefs (some g.pattern) p := by
  simp [Role.refs, fieldRefs]

theorem State.storeSound_kept_by_tick (ch : ChannelId) : KeptByTick ch State.StoreSound where
  report _ _ h := ⟨h.accounted, h.sound, h.counted⟩
  place s l h := h.of_refs rfl (channelRefs_place s l)
  undeliver _ c l h hc := h.of_set (d := c.undeliver l) hc (fun _ => rfl) rfl rfl
  write _ c d h hc k := h.of_set (d := d) hc k.refs rfl rfl
  swap s c o g h hc hr hg :=
    h.recount (ch := ch) (x := some { c with role := .output (o.swapped s.store g) }) rfl (s.store.releaseField_recounted o.active)
      (fun p => by
        rw [hc]
        show (Role.output (o.swapped s.store g)).refs p + _ = c.role.refs p + 0
        rw [OutputRole.refs_swapped, Role.refs_of_output hr, hg, Nat.add_comm]
        rfl)
      fun _ _ => rfl

/-! ### The effects of requests -/

theorem Role.refs_cleared (r : Role) (p : PatternId) : r.cleared.refs p = 0 := by
  cases r <;> simp [Role.cleared, Role.refs, OutputRole.fresh, fieldRefs]

theorem Role.refs_cut (r : Role) (p : PatternId) : r.cut.refs p = r.refs p := by
  cases r <;> rfl

/-- R51: nothing is left of patterns, and no channel holds a reference. -/
theorem State.StoreSound.warm (s : State) : s.warmReset.StoreSound where
  accounted := by
    rw [State.warmReset_store]
    unfold PatternStore.Accounted
    decide
  sound := by
    intro p
    rw [State.warmReset_store]
    simp [PatternStore.empty]
  counted p := by
    have none (x : ChannelId) : channelRefs s.warmReset.channels[x] p = 0 := by
      rw [State.warmReset_channels, getElem_ofFn_fin]
      unfold resetChannel
      split
      case h_1 => rfl
      case h_2 c _ =>
        split
        case isTrue => exact Role.refs_cleared c.role p
        case isFalse => rfl
    rw [Finset.sum_eq_zero fun x _ => none x, State.warmReset_store]
    simp [PatternStore.empty]

/-- Sums over the rows when one is written: its own part is exchanged. -/
theorem sum_rows_set (v : Vector PatternRow 32) (i : PatternId) (r : PatternRow) (f : PatternRow → Nat) :
    (∑ p : PatternId, f (v.set i r)[p]) + f v[i] = (∑ p : PatternId, f v[p]) + f r := by
  rw [← Finset.add_sum_erase _ _ (Finset.mem_univ i), ← Finset.add_sum_erase (a := i) Finset.univ (fun p => f v[p]) (Finset.mem_univ i),
    getElem_set_self_fin]
  have others : ∑ p ∈ Finset.univ.erase i, f (v.set i r)[p] = ∑ p ∈ Finset.univ.erase i, f v[p] :=
    Finset.sum_congr rfl fun p hp => by rw [getElem_set_fin, if_neg (Finset.ne_of_mem_erase hp).symm]
  rw [others]
  omega

theorem row_le_sum (v : Vector PatternRow 32) (i : PatternId) (f : PatternRow → Nat) : f v[i] ≤ ∑ p : PatternId, f v[p] :=
  Finset.single_le_sum (f := fun p : PatternId => f v[p]) (fun _ _ => Nat.zero_le _) (Finset.mem_univ i)

/-- One for a DEFINED row. -/
def PatternRow.present (r : PatternRow) : Nat := if r.pattern = none then 0 else 1

/-- R8, R10: a row takes its new pattern's slots for those of the old one. -/
theorem PatternStore.Accounted.define (h : a.Accounted) (i : PatternId) {q : Pattern}
    (room : q.segments.length ≤ a.free + (a.rows[i]).slots) : (a.define i q).Accounted := by
  obtain ⟨pool, counted⟩ := h
  have slots := sum_rows_set a.rows i { pattern := some q, users := 0 } PatternRow.slots
  have present := sum_rows_set a.rows i { pattern := some q, users := 0 } PatternRow.present
  have counted : a.defined = ∑ p : PatternId, (a.rows[p]).present := counted
  refine ⟨?_, ?_⟩
  · show a.free + (a.rows[i]).slots - q.segments.length + _ = _
    have own : PatternRow.slots { pattern := some q, users := 0 } = q.segments.length := rfl
    unfold PatternStore.define
    dsimp only
    omega
  · show (if (a.rows[i]).pattern = none then a.defined + 1 else a.defined) =
      ∑ p : PatternId, ((a.rows.set i { pattern := some q, users := 0 })[p]).present
    have own : PatternRow.present { pattern := some q, users := 0 } = 1 := rfl
    have old : (a.rows[i]).present = if (a.rows[i]).pattern = none then 0 else 1 := rfl
    split at old <;> simp only [*, if_true, if_false] <;> omega

/-- R12: the slots of a deleted row are free again. -/
theorem PatternStore.Accounted.delete (h : a.Accounted) {i : PatternId} (defined : (a.rows[i]).pattern ≠ none) :
    (a.delete i).Accounted := by
  obtain ⟨pool, counted⟩ := h
  have slots := sum_rows_set a.rows i { pattern := none, users := 0 } PatternRow.slots
  have present := sum_rows_set a.rows i { pattern := none, users := 0 } PatternRow.present
  have counted : a.defined = ∑ p : PatternId, (a.rows[p]).present := counted
  have old : (a.rows[i]).present = 1 := if_neg defined
  refine ⟨?_, ?_⟩
  · show a.free + (a.rows[i]).slots + ∑ p : PatternId, ((a.rows.set i { pattern := none, users := 0 })[p]).slots = _
    have own : PatternRow.slots { pattern := none, users := 0 } = 0 := rfl
    omega
  · show a.defined - 1 = ∑ p : PatternId, ((a.rows.set i { pattern := none, users := 0 })[p]).present
    have own : PatternRow.present { pattern := none, users := 0 } = 0 := rfl
    omega

/-- A row without users is written without users, as DEFINED with a sound pattern or as EMPTY. -/
theorem State.StoreSound.of_row (h : s.StoreSound) (accounted : b.Accounted) {i : PatternId} {x : Option Pattern}
    (rows : b.rows = s.store.rows.set i { pattern := x, users := 0 }) (unused : (s.store.rows[i]).users = 0)
    (sound : ∀ q, x = some q → q.Sound) : State.StoreSound { s with store := b } where
  accounted := accounted
  sound p := by
    show match (b.rows[p]).pattern with
      | none => (b.rows[p]).users = 0
      | some q => q.Sound
    rw [rows, getElem_set_fin]
    by_cases at_p : i = p
    · rw [if_pos at_p]
      cases hx : x with
      | none => rfl
      | some q => exact sound q hx
    · rw [if_neg at_p]
      exact h.sound p
  counted p := by
    show (b.rows[p]).users = _
    rw [rows, getElem_set_fin]
    split
    case isTrue at_p =>
      rw [← at_p, ← unused]
      exact h.counted i
    case isFalse => exact h.counted p

theorem OutputRole.refs_assignStaged (o : OutputRole) (p : PatternId) (w : SwapPoint) (q : PatternId) :
    (Role.output (o.assignStaged p w)).refs q = fieldRefs o.active q + fieldRefs (some p) q := rfl

theorem OutputRole.refs_assignActive (o : OutputRole) (p : PatternId) (q : PatternId) :
    (Role.output (o.assignActive p)).refs q = fieldRefs (some p) q := rfl

theorem OutputRole.refs_started (o : OutputRole) (q : PatternId) :
    (Role.output o.started).refs q = fieldRefs (o.started.active) q := rfl

theorem PatternStore.Recounted.of_taken {c : PatternStore} (p : PatternId) (h : (a.retain p).Recounted c (fun _ => 0) given) :
    a.Recounted c (fieldRefs (some p)) given := by
  have both := (a.retain_recounted p).trans h
  simpa using both

/-- A reference to a DEFINED row is to no EMPTY one. -/
theorem fieldRefs_of_defined {p q : PatternId} (defined : (a.rows[p]).pattern ≠ none) (empty : a.patterns q = none) :
    fieldRefs (some p) q = 0 := by
  have other : p ≠ q := fun e => defined (e ▸ empty)
  simp [fieldRefs, other]

theorem channelRefs_held (x : Option Channel) (p : PatternId) : channelRefs (heldRecord x) p = channelRefs x p := by
  cases x with
  | none => rfl
  | some c =>
    show channelRefs (some (if (c.isOutput && c.inPlay) = true then c.halt .hold else c)) p = _
    split
    case isTrue => exact Role.refs_cut c.role p
    case isFalse => rfl

theorem State.StoreSound.enterHold (h : s.StoreSound) (cause : HoldCause) : (s.enterHold cause).StoreSound := by
  refine h.of_refs (by simp) fun x p => ?_
  rw [State.enterHold_eq]
  exact (congrArg (channelRefs · p) (State.heldChannels_getElem s x)).trans (channelRefs_held _ p)

/-- R42: what a START on an output channel takes and gives up: a promoted pattern's reference is the one it had as staged. -/
theorem State.StoreSound.startOutput (h : s.StoreSound) {fields : StartFields} (hc : s.channels[fields.ch] = some c)
    (hr : c.role = .output o) : (s.startOutput fields c o).StoreSound := by
  have channels := s.startOutput_channels fields c o
  cases staged : o.staged with
  | none =>
    have store : (s.startOutput fields c o).store = s.store := by simp only [State.startOutput, staged]; rfl
    refine h.of_set (d := c.started fields (.output o.started)) hc (fun p => ?_) channels store
    show (Role.output o.started).refs p = _
    rw [OutputRole.refs_started, Role.refs_of_output hr, OutputRole.started, staged]
    rfl
  | some g =>
    have store : (s.startOutput fields c o).store = s.store.releaseField o.active := by
      simp only [State.startOutput, staged]
      rfl
    refine h.recount channels (store ▸ s.store.releaseField_recounted o.active) (fun p => ?_) fun _ _ => rfl
    rw [hc]
    show (Role.output o.started).refs p + _ = c.role.refs p + 0
    rw [OutputRole.refs_started, Role.refs_of_output hr, OutputRole.started, staged, Nat.add_comm]
    rfl

theorem State.Effect.storeSound (h : s.StoreSound) (e : s.Effect t) : t.StoreSound := by
  cases e with
  | warm => exact .warm s
  | holdEntry => exact State.StoreSound.enterHold (s := s.withHoldFlag true) (h.of_refs rfl fun _ _ => rfl) _
  | define i q sound unused room =>
    refine h.of_row (h.accounted.define i room) (i := i) (x := some q) rfl ?_ fun _ e => by cases e; exact sound
    exact unused.elim h.sound.users_of_empty id
  | delete i defined unused => exact h.of_row (h.accounted.delete defined) (i := i) (x := none) rfl unused nofun
  | bind ch r p tb role isFree =>
    refine h.of_refs rfl fun x q => ?_
    show channelRefs (s.channels.set ch (some (Channel.bound r p tb s.time)))[x] q = _
    rw [getElem_set_fin]
    split
    case isTrue at_x =>
      rw [← at_x, isFree]
      rcases role with rfl | rfl <;> rfl
    case isFalse => rfl
  | becomesFree ch c hc =>
    refine h.recount (s.freeChannel_channels ch c) (s.store.releaseRole_recounted c.role) (fun p => ?_) fun _ _ => rfl
    rw [hc]
    simp only [channelRefs, Nat.zero_add, Nat.add_zero]
  | freeze ch c hc => exact h.of_set (d := { c with frozen := true }) hc (fun _ => rfl) rfl rfl
  | clear ch c hc =>
    refine h.recount (ch := ch) (x := some (c.cleared s.time)) rfl (s.store.releaseRole_recounted c.role) (fun p => ?_) fun _ _ => rfl
    rw [hc]
    simp only [channelRefs, Channel.cleared, Role.refs_cleared, Nat.zero_add, Nat.add_zero]
  | idleLevel ch c o l hc role =>
    exact h.of_set (d := { c with role := .output { o with idleLevel := l } }) hc (fun _ => by rw [role]; rfl) rfl rfl
  | inputSettings ch c i j hc role => exact h.of_set (d := { c with role := .input j }) hc (fun _ => by rw [role]; rfl) rfl rfl
  | stage ch c o p w hc role defined running =>
    refine h.recount (ch := ch) (x := some { c with role := .output (o.assignStaged p w) }) rfl
      (.of_taken p (PatternStore.releaseField_recounted _ (o.staged.map Staged.pattern))) (fun q => ?_)
      fun q empty => fieldRefs_of_defined defined empty
    rw [hc]
    show (Role.output (o.assignStaged p w)).refs q + _ = c.role.refs q + _
    rw [OutputRole.refs_assignStaged, Role.refs_of_output role]
    omega
  | activate ch c o p hc role defined notRunning =>
    refine h.recount (ch := ch) (x := some { c with role := .output (o.assignActive p) }) rfl
      (.of_taken p (PatternStore.releaseRole_recounted _ (.output o))) (fun q => ?_)
      fun q empty => fieldRefs_of_defined defined empty
    rw [hc]
    simp only [channelRefs, OutputRole.refs_assignActive, role]
    omega
  | unstage ch c o g hc role staged =>
    refine h.recount (ch := ch) (x := some { c with role := .output { o with staged := none } }) rfl
      (s.store.release_recounted g.pattern) (fun q => ?_) fun _ _ => rfl
    rw [hc]
    simp only [channelRefs, role, Role.refs, staged, Option.map_some, Option.map_none]
    rfl
  | startOutput fields c o hc role => exact h.startOutput hc role
  | startInput fields c i hc role =>
    exact h.of_set (d := c.started fields (.input i.cleared)) hc (fun _ => by rw [role]; rfl) rfl rfl
  | stop ch c hc => exact h.of_set (d := c.halt .request) hc (Role.refs_cut c.role) rfl rfl
  | _ => exact h.of_refs rfl fun _ _ => rfl

end

end Sys2Proof.Machine
end

section
/-! SUPPORT. The store and the play of every output channel together, through every step. -/

namespace Sys2Proof.Machine

section
variable {s t : State}

/-- The store, its counts, and the play of every output channel. -/
def State.StorePlaySound (s : State) : Prop :=
  s.StoreSound ∧ ∀ (x : ChannelId) (c : Channel), s.channels[x] = some c → c.PlaySoundIn s.store.patterns

theorem State.storePlaySound_iff : s.StorePlaySound ↔ s.store.Accounted ∧ s.PlaySound := by
  unfold State.StorePlaySound State.PlaySound
  simp only [Channel.outputSound_iff]
  exact ⟨fun ⟨⟨accounted, sound, counted⟩, play⟩ => ⟨accounted, sound, counted, play⟩,
    fun ⟨accounted, sound, counted, play⟩ => ⟨⟨accounted, sound, counted⟩, play⟩⟩

theorem State.StorePlaySound.of_same (h : s.StorePlaySound) (store : t.store = s.store) (channels : t.channels = s.channels) :
    t.StorePlaySound := by
  refine ⟨h.1.of_refs store fun x p => by rw [channels], ?_⟩
  rw [store, channels]
  exact h.2

theorem State.StorePlaySound.tick (h : s.StorePlaySound) (ch : ChannelId) (y : Sample) : (s.tickChannel ch y).StorePlaySound := by
  have plays := State.Plays.tickChannel s ch y
  have patterns : (s.tickChannel ch y).store.patterns = s.store.patterns := funext plays.pattern
  refine ⟨(State.storeSound_kept_by_tick ch).tickChannel h.1 y, fun x d hd => ?_⟩
  rw [patterns]
  obtain ⟨c, hc, rfl | ⟨ds, rfl⟩⟩ := plays.record hd
  · obtain ⟨_, e, he, m⟩ := State.Reaches.tickChannel hc y
    cases hd.symm.trans he
    exact m.playSound h.1.sound.patternsSound (h.2 _ c hc) (h.1.definedIn hc)
  · exact h.2 x c hc

/-- The patterns of the rows change for a definition, a deletion and the warm reset alone. -/
theorem State.Effect.patterns_cases (e : s.Effect t) : t.store.patterns = s.store.patterns ∨ t = s.warmReset ∨
    ∃ i b, (s.store.patterns i = none ∨ (s.store.rows[i]).users = 0) ∧ t = { s with store := b } ∧
      ∀ p, p ≠ i → b.patterns p = s.store.patterns p := by
  cases e with
  | warm => exact .inr (.inl rfl)
  | define i q sound unused =>
    refine .inr (.inr ⟨i, _, unused, rfl, fun p other => ?_⟩)
    exact congrArg PatternRow.pattern ((getElem_set_fin ..).trans (if_neg (Ne.symm other)))
  | delete i defined unused =>
    refine .inr (.inr ⟨i, _, .inr unused, rfl, fun p other => ?_⟩)
    exact congrArg PatternRow.pattern ((getElem_set_fin ..).trans (if_neg (Ne.symm other)))
  | holdEntry => exact .inl (by simp)
  | becomesFree ch c => exact .inl (s.store.releaseRole_recounted c.role).patterns
  | clear ch c => exact .inl (s.store.releaseRole_recounted c.role).patterns
  | stage ch c o p =>
    exact .inl (PatternStore.Recounted.of_taken p (PatternStore.releaseField_recounted _ (o.staged.map Staged.pattern))).patterns
  | activate ch c o p =>
    exact .inl (PatternStore.Recounted.of_taken p (PatternStore.releaseRole_recounted _ (.output o))).patterns
  | unstage ch c o g => exact .inl (s.store.release_recounted g.pattern).patterns
  | startOutput f c o =>
    refine .inl ?_
    unfold State.startOutput
    split
    case h_1 => rfl
    case h_2 => exact (s.store.releaseField_recounted o.active).patterns
  | _ => exact .inl rfl

/-- Play that refers to no changed row is sound with the rows as they are now. -/
theorem Channel.PlaySoundIn.of_patterns {c : Channel} {f f' : PatternId → Option Pattern} (h : c.PlaySoundIn f)
    (same : ∀ o p, c.role = .output o → o.active = some p → f' p = f p) : c.PlaySoundIn f' := by
  intro o ho
  have p := h o ho
  have active : o.activeIn f' = o.activeIn f := by
    unfold OutputRole.activeIn
    cases ha : o.active with
    | none => rfl
    | some k => exact same o k ho ha
  exact { p with inside := fun n hn => by rw [active]; exact p.inside n hn }

theorem State.Effect.storePlaySound (h : s.StorePlaySound) (e : s.Effect t) : t.StorePlaySound := by
  refine ⟨e.storeSound h.1, fun x d hd => ?_⟩
  rcases e.patterns_cases with patterns | rfl | ⟨i, b, unused, rfl, others⟩
  · rw [patterns]
    exact (e.rewrites hd).playSound (h.2 x)
  · rw [State.warmReset_channels, getElem_ofFn_fin] at hd
    unfold resetChannel at hd
    split at hd
    case h_1 => cases hd
    case h_2 c _ =>
      split at hd
      case isTrue =>
        cases hd
        exact .cleared c s.time
      case isFalse => cases hd
  · have hd : s.channels[x] = some d := hd
    refine (h.2 x d hd).of_patterns fun o p ho active => others p ?_
    rintro rfl
    have defined := (h.1.definedIn hd o ho).active p active
    have users := unused.resolve_left defined
    have counted := h.1.counted p
    have bound := refs_le_sum s.channels x p
    have own : channelRefs s.channels[x] p = fieldRefs o.active p + fieldRefs (o.staged.map Staged.pattern) p := by
      rw [hd]
      exact Role.refs_of_output ho p
    have one : fieldRefs o.active p = 1 := by rw [active]; exact if_pos rfl
    omega

theorem State.StorePlaySound.enterHold (h : s.StorePlaySound) (cause : HoldCause) : (s.enterHold cause).StorePlaySound := by
  refine ⟨h.1.enterHold cause, fun x d hd => ?_⟩
  have store : (s.enterHold cause).store = s.store := by simp
  rw [State.enterHold_eq] at hd
  have held : heldRecord s.channels[x] = some d := (State.heldChannels_getElem ..).symm.trans hd
  rw [store]
  exact (State.Rewrites.of_heldRecord held).playSound (h.2 x)

theorem State.StorePlaySound.changePinHold (h : s.StorePlaySound) : s.changePinHold.StorePlaySound := by
  rcases s.changePinHold_cases with ⟨_, _, e⟩ | ⟨_, _, e⟩ | ⟨_, p, e⟩ <;> rw [e]
  · exact State.StorePlaySound.enterHold (s := s.withPinHold .asserted) (h.of_same rfl rfl) _
  · exact h.of_same rfl rfl
  · exact h.of_same rfl rfl

theorem State.storePlaySound_cold (h : HoldUnit) : State.StorePlaySound { State.cold with hold := h } := by
  have free (x : ChannelId) : State.cold.channels[x] = none := by simp [State.cold]
  refine ⟨⟨?_, fun p => ?_, fun p => ?_⟩, fun x c hc => ?_⟩
  · show PatternStore.empty.Accounted
    unfold PatternStore.Accounted
    decide
  · simp [State.cold, PatternStore.empty]
  · have none (x : ChannelId) : channelRefs State.cold.channels[x] p = 0 := by rw [free]; rfl
    show _ = ∑ x : ChannelId, channelRefs State.cold.channels[x] p
    rw [Finset.sum_eq_zero fun x _ => none x]
    simp [State.cold, PatternStore.empty]
  · cases (free x).symm.trans hc

theorem State.storePlaySound_kept : KeptByBlocks State.StorePlaySound where
  same _ _ e h := h.of_same e.store e.channels
  effect _ _ h e := e.storePlaySound h
  tick _ ch y h := h.tick ch y
  pinHold _ h := h.changePinHold
  runCount _ _ h := h.of_same rfl rfl
  clock _ h := h.of_same rfl rfl
  taken _ _ h := h.of_same rfl rfl
  cold _ := State.storePlaySound_cold _

end

/-- Settles O55: the store and the play are kept together by every step, since play refers to rows that its references hold. -/
theorem patternsAndPlayStaySound : Obligations.PatternsAndPlayStaySound :=
  fun _ _ accounted play e =>
    State.storePlaySound_iff.mp (State.storePlaySound_kept.step (State.storePlaySound_iff.mpr ⟨accounted, play⟩) e)

end Sys2Proof.Machine
end

section
/-! SUPPORT. The link unit stays sound: its collections within their capacities, its tags distinct, its report numbers consecutive (R142,
R147, R151, R154, R156). -/

namespace Sys2Proof.Machine

section
variable {k k' : Link} {r : Request}

/-- The tags in the request queue and the replay table (R151). -/
def Link.tags (k : Link) : List Byte := k.requests.map Request.tag ++ k.replay.map ReplayEntry.tag

/-- The link unit's invariant. -/
structure Link.Sound (k : Link) : Prop where
  bounded : k.Bounded
  distinct : k.TagsDistinct
  consecutive : k.Consecutive

/-! ### The report queue -/

theorem BitVec.sub_ofNat_succ (x : Half) (n : Nat) : x + 1 - BitVec.ofNat 16 (n + 1) = x - BitVec.ofNat 16 n := by
  rw [BitVec.ofNat_add]
  bv_omega

/-- R154: a report that joins the queue takes the next number. -/
theorem Link.Consecutive.append (h : k.Consecutive) (b : ReportBody) (lost : Nat) :
    Link.Consecutive { k with reports := k.reports ++ [{ seq := k.nextSeq, body := b }], nextSeq := k.nextSeq + 1, lost := lost } := by
  intro n hn
  dsimp only at hn ⊢
  rw [List.length_append, List.length_singleton] at hn ⊢
  by_cases old : n < k.reports.length
  · rw [List.getElem_append_left old, h n old, show k.reports.length + 1 - n = (k.reports.length - n) + 1 by omega,
      BitVec.sub_ofNat_succ]
  · have last : n = k.reports.length := by omega
    subst last
    simp

/-- R153: the oldest report leaves the queue. -/
theorem Link.Consecutive.tail {x : Report} {rest : List Report} (h : k.Consecutive) (e : k.reports = x :: rest) (credit : Nat) :
    Link.Consecutive { k with reports := rest, credit := credit } := by
  intro n hn
  have hn : n < rest.length := hn
  have at_next := h (n + 1) (by rw [e, List.length_cons]; omega)
  simp only [e, List.getElem_cons_succ, List.length_cons, Nat.add_sub_add_right] at at_next
  exact at_next

theorem Link.Consecutive.of_empty (h : k.reports = []) : k.Consecutive := by
  intro n hn
  rw [h] at hn
  cases hn

/-- The invariant speaks of the queues, the counts, the receiver and the low run alone. -/
theorem Link.Sound.of_fields (h : k.Sound) (requests : k'.requests = k.requests) (replies : k'.replies = k.replies)
    (replay : k'.replay = k.replay) (reports : k'.reports = k.reports) (nextSeq : k'.nextSeq = k.nextSeq)
    (credit : k'.credit = k.credit) (lost : k'.lost = k.lost) (receiver : k'.receiver = k.receiver)
    (lowRun : k'.lowRun = k.lowRun) : k'.Sound := by
  obtain ⟨bounded, distinct, consecutive⟩ := h
  refine ⟨?_, ?_, ?_⟩
  · unfold Link.Bounded
    rw [requests, replies, replay, reports, credit, lost, receiver, lowRun]
    exact bounded
  · unfold Link.TagsDistinct
    rw [requests, replay]
    exact distinct
  · unfold Link.Consecutive
    simp only [reports, nextSeq]
    exact consecutive

theorem Link.Sound.receiving (h : k.Sound) {x : Receiver} (sound : x.Sound) (n : Nat) :
    Link.Sound { k with receiver := x, gapTimer := n } := by
  obtain ⟨⟨requests, replies, replay, reports, credit, lost, _, lowRun⟩, distinct, consecutive⟩ := h
  exact ⟨⟨requests, replies, replay, reports, credit, lost, sound, lowRun⟩, distinct, consecutive⟩

theorem Link.Sound.lowRun (h : k.Sound) {n : Nat} (bound : n ≤ Config.breakSamples) : Link.Sound { k with lowRun := n } := by
  obtain ⟨⟨requests, replies, replay, reports, credit, lost, receiver, _⟩, distinct, consecutive⟩ := h
  exact ⟨⟨requests, replies, replay, reports, credit, lost, receiver, bound⟩, distinct, consecutive⟩

theorem Link.Sound.credited (h : k.Sound) {n : Nat} (bound : n ≤ Config.maxCredit) : Link.Sound { k with credit := n } := by
  obtain ⟨⟨requests, replies, replay, reports, _, lost, receiver, lowRun⟩, distinct, consecutive⟩ := h
  exact ⟨⟨requests, replies, replay, reports, bound, lost, receiver, lowRun⟩, distinct, consecutive⟩

theorem Link.Sound.append (h : k.Sound) (b : ReportBody) : (k.append b).Sound := by
  obtain ⟨⟨requests, replies, replay, reports, credit, lost, receiver, lowRun⟩, distinct, consecutive⟩ := h
  rcases k.append_cases b with ⟨room, e⟩ | ⟨_, e⟩ <;> rw [e]
  · refine ⟨⟨requests, replies, replay, ?_, credit, lost, receiver, lowRun⟩, distinct, consecutive.append b k.lost⟩
    rw [List.length_append]
    exact room
  · exact ⟨⟨requests, replies, replay, reports, credit, countUp_le _, receiver, lowRun⟩, distinct, consecutive⟩

theorem Link.Sound.reported (h : k.Sound) (g : k.Reported k') : k'.Sound := g.keeps (fun _ b h => h.append b) h

theorem Link.Sound.appendGap (h : k.Sound) : k.appendGap.Sound := by
  rcases k.appendGap_cases with ⟨_, room, e⟩ | ⟨_, e⟩ <;> rw [e]
  · obtain ⟨⟨requests, replies, replay, _, credit, _, receiver, lowRun⟩, distinct, consecutive⟩ := h
    refine ⟨⟨requests, replies, replay, ?_, credit, Nat.zero_le _, receiver, lowRun⟩, distinct, consecutive.append _ 0⟩
    rw [List.length_append]
    exact room
  · exact h

theorem Link.Sound.settleGap (h : k.Sound) : k.settleGap.Sound := by
  unfold Link.settleGap
  split
  case isTrue => exact h.appendGap.of_fields rfl rfl rfl rfl rfl rfl rfl rfl rfl
  case isFalse => exact h

/-! ### Replies and requests -/

theorem Link.Sound.replies (h : k.Sound) {fs : List Frame} (bound : fs.length ≤ Config.replySlots) :
    Link.Sound { k with replies := fs } := by
  obtain ⟨⟨requests, _, replay, reports, credit, lost, receiver, lowRun⟩, distinct, consecutive⟩ := h
  exact ⟨⟨requests, bound, replay, reports, credit, lost, receiver, lowRun⟩, distinct, consecutive⟩

theorem Link.Sound.pushReply (h : k.Sound) (f : Frame) : (k.pushReply f).Sound := by
  rcases k.pushReply_cases f with ⟨room, e⟩ | ⟨_, e⟩ <;> rw [e]
  · refine h.replies ?_
    rw [List.length_append]
    exact room
  · exact h

/-- Requests and replay entries that are some of those before. -/
theorem Link.Sound.of_sublists (h : k.Sound) {rs : List Request} {es : List ReplayEntry} (requests : rs.Sublist k.requests)
    (replay : es.Sublist k.replay) : Link.Sound { k with requests := rs, replay := es } := by
  obtain ⟨⟨hrequests, replies, hreplay, reports, credit, lost, receiver, lowRun⟩, distinct, consecutive⟩ := h
  refine ⟨⟨requests.length_le.trans hrequests, replies, replay.length_le.trans hreplay, reports, credit, lost, receiver, lowRun⟩,
    ?_, consecutive⟩
  exact distinct.sublist ((requests.map _).append (replay.map _))

theorem Link.Sound.forget (h : k.Sound) (tag : Byte) : (k.forget tag).Sound :=
  h.of_sublists (List.Sublist.refl _) List.filter_sublist

theorem Link.forget_tag (k : Link) (tag : Byte) : tag ∉ (k.forget tag).replay.map ReplayEntry.tag := by
  intro member
  obtain ⟨e, he, ht⟩ := List.mem_map.mp member
  have other := (List.mem_filter.mp he).2
  simp only [ht, ne_eq, not_true_eq_false, decide_false, Bool.false_eq_true] at other

/-- R147 checks 3 to 5, once the replay table has no entry of the tag. -/
theorem Link.Sound.screen (h : k.Sound) (fresh : r.tag ∉ k.replay.map ReplayEntry.tag) : (k.screen r).Sound := by
  rcases k.screen_cases r with ⟨_, e⟩ | ⟨absent, room, e⟩ | ⟨_, _, e⟩ <;> rw [e]
  · exact h
  · obtain ⟨⟨_, replies, replay, reports, credit, lost, receiver, lowRun⟩, distinct, consecutive⟩ := h
    refine ⟨⟨?_, replies, replay, reports, credit, lost, receiver, lowRun⟩, ?_, consecutive⟩
    · rw [List.length_append]
      exact room
    · show ((k.requests ++ [r]).map Request.tag ++ k.replay.map ReplayEntry.tag).Nodup
      rw [List.map_append, List.map_singleton, List.append_assoc, List.singleton_append, List.nodup_middle, List.nodup_cons]
      exact ⟨fun member => (List.mem_append.mp member).elim absent fresh, distinct⟩
  · exact h.pushReply _

theorem Link.Sound.arrive (h : k.Sound) (r : Request) : (k.arrive r).Sound := by
  rcases k.arrive_cases r with ⟨e, _, _, _, a⟩ | a <;> rw [a]
  · exact h.pushReply _
  · exact (h.forget r.tag).screen (k.forget_tag r.tag)

/-- R149, R151: the reply to a request whose tag stands nowhere else. -/
theorem Link.Sound.answer (h : k.Sound) (room : k.replies.length < Config.replySlots)
    (fresh : r.tag ∉ k.tags) (body : List Byte) : (k.answer r body).Sound := by
  have shorter : (if k.replay.length < Config.replaySlots then k.replay else k.replay.tail).Sublist k.replay := by
    split
    case isTrue => exact .refl _
    case isFalse => exact List.tail_sublist _
  have short : (if k.replay.length < Config.replaySlots then k.replay else k.replay.tail).length < Config.replaySlots := by
    split
    case isTrue room => exact room
    case isFalse full =>
      have slots : 0 < Config.replaySlots := by decide
      have bound := h.bounded.2.2.1
      rw [List.length_tail]
      omega
  have h := h.of_sublists (.refl _) shorter
  obtain ⟨⟨requests, _, _, reports, credit, lost, receiver, lowRun⟩, distinct, consecutive⟩ := h
  refine ⟨⟨requests, ?_, ?_, reports, credit, lost, receiver, lowRun⟩, ?_, consecutive⟩
  · show (k.replies ++ [replyFrame r body]).length ≤ _
    rw [List.length_append]
    exact room
  · show ((if k.replay.length < Config.replaySlots then k.replay else k.replay.tail) ++ [_]).length ≤ _
    rw [List.length_append]
    exact short
  · show (k.requests.map Request.tag ++
      ((if k.replay.length < Config.replaySlots then k.replay else k.replay.tail) ++ [_]).map ReplayEntry.tag).Nodup
    rw [List.map_append, List.map_singleton, ← List.append_assoc, ← List.concat_eq_append, List.nodup_concat]
    refine ⟨fun member => fresh ?_, distinct⟩
    exact ((List.Sublist.refl _).append (shorter.map _)).subset member

/-! ### Resets, the transmitter and the receiver -/

theorem Link.Sound.of_empty (requests : k.requests = []) (replay : k.replay = []) (reports : k.reports = [])
    (replies : k.replies.length ≤ Config.replySlots) (credit : k.credit ≤ Config.maxCredit) (lost : k.lost = 0)
    (receiver : k.receiver.Sound) (lowRun : k.lowRun ≤ Config.breakSamples) : k.Sound := by
  refine ⟨⟨?_, replies, ?_, ?_, credit, ?_, receiver, lowRun⟩, ?_, .of_empty reports⟩
  · rw [requests]; exact Nat.zero_le _
  · rw [replay]; exact Nat.zero_le _
  · rw [reports]; exact Nat.zero_le _
  · rw [lost]; exact Nat.zero_le _
  · unfold Link.TagsDistinct
    rw [requests, replay]
    exact List.nodup_nil

theorem Link.Sound.warm (h : k.Sound) : k.warmReset.Sound := by
  obtain ⟨_, replies, _, _, _, _, receiver, lowRun⟩ := h.bounded
  exact .of_empty rfl rfl rfl replies (Nat.zero_le _) rfl receiver lowRun

theorem Link.Sound.served (h : k.Sound) (g : k.Served k') : k'.Sound := by
  cases g with
  | reported g => exact h.reported g
  | credited n bound => exact h.credited bound
  | warm => exact h.warm

theorem Link.Sound.resetLink (h : k.Sound) : k.resetLink.Sound := by
  have emptied := (h.of_sublists (List.nil_sublist _) (List.nil_sublist _)).replies (fs := []) (Nat.zero_le _)
  exact (emptied.credited (Nat.zero_le _)).receiving (x := .hunting) trivial 0

theorem Link.Sound.transmitNext (h : k.Sound) (gapFirst : Bool) : (k.transmitNext gapFirst).Sound := by
  rcases k.transmitNext_cases gapFirst with ⟨f, rest, e, a⟩ | ⟨_, x, rest, e, _, a⟩ | ⟨_, _, a⟩ <;> rw [a]
  · have bound := h.bounded.2.1
    rw [e, List.length_cons] at bound
    exact (h.replies (fs := rest) (by omega)).of_fields rfl rfl rfl rfl rfl rfl rfl rfl rfl
  · have sent : Link.Sound { k with reports := rest, credit := k.credit - 1 } := by
      obtain ⟨⟨requests, replies, replay, reports, credit, lost, receiver, lowRun⟩, distinct, consecutive⟩ := h
      rw [e, List.length_cons] at reports
      exact ⟨⟨requests, replies, replay, Nat.le_of_succ_le reports, (Nat.sub_le _ _).trans credit, lost, receiver, lowRun⟩, distinct,
        consecutive.tail e _⟩
    have sent : (Link.send { k with reports := rest, credit := k.credit - 1 } (reportFrame x)).Sound :=
      sent.of_fields rfl rfl rfl rfl rfl rfl rfl rfl rfl
    unfold Link.tryGap
    split
    case isTrue => exact sent.appendGap
    case isFalse => exact sent.of_fields rfl rfl rfl rfl rfl rfl rfl rfl rfl
  · exact h.of_fields rfl rfl rfl rfl rfl rfl rfl rfl rfl

/-- R142: the receiver that a byte of CONTENT leaves. -/
theorem contentByte_sound {len : Nat} {got : List Byte} (h : (Receiver.content len got).Sound) (b : Byte) :
    (contentByte len got b).Sound := by
  obtain ⟨lo, hi, short⟩ := h
  unfold contentByte
  split
  case isTrue last =>
    show 2 ≤ (got ++ [b]).length ∧ (got ++ [b]).length ≤ 250
    rw [List.length_append, List.length_singleton]
    omega
  case isFalse more =>
    show 2 ≤ len ∧ len ≤ 250 ∧ (got ++ [b]).length < len
    rw [List.length_append, List.length_singleton]
    omega

end

section
variable {s t : State}

theorem State.linkSound_notice (h : s.link.Sound) (x : NoticeReason) : (s.notice x).link.Sound := h.append _

theorem State.linkSound_receiving (h : s.link.Sound) {x : Receiver} (sound : x.Sound) : (s.receiving x).link.Sound :=
  h.receiving sound 0

theorem State.linkSound_judge (h : s.link.Sound) (content : List Byte) (hi lo : Byte) : (s.judge content hi lo).link.Sound := by
  have hunting : (s.receiving .hunting).link.Sound := State.linkSound_receiving h trivial
  unfold State.judge
  dsimp only
  split
  case isTrue => exact State.linkSound_notice hunting _
  case isFalse =>
    split
    case h_1 =>
      split
      case isTrue => exact State.linkSound_notice hunting _
      case isFalse => exact hunting.arrive _
    case h_2 => exact hunting

theorem State.linkSound_receiveByte (h : s.link.Sound) (b : Byte) : (s.receiveByte b).link.Sound := by
  obtain ⟨_, _, _, _, _, _, receiver, _⟩ := h.bounded
  unfold State.receiveByte
  split
  case h_1 =>
    split
    case isTrue => exact State.linkSound_receiving h trivial
    case isFalse => exact h
  case h_2 =>
    split
    case isTrue => exact State.linkSound_notice (s := s.receiving .hunting) (State.linkSound_receiving h trivial) _
    case isFalse good =>
      have good : ¬(b.toNat < 2 ∨ 250 < b.toNat) := by simpa [badLength] using good
      refine State.linkSound_receiving h ?_
      show 2 ≤ b.toNat ∧ b.toNat ≤ 250 ∧ 0 < b.toNat
      omega
  case h_3 len got e =>
    rw [e] at receiver
    exact State.linkSound_receiving h (contentByte_sound receiver b)
  case h_4 content e =>
    rw [e] at receiver
    exact State.linkSound_receiving h receiver
  case h_5 => exact State.linkSound_judge h _ _ _

theorem State.linkSound_gapExpires (h : s.link.Sound) : s.gapExpires.link.Sound := by
  unfold State.gapExpires
  split
  case h_1 => exact h
  case h_2 => exact State.linkSound_notice (s := s.receiving .hunting) (State.linkSound_receiving h trivial) _

theorem State.linkSound_linkReset (h : s.link.Sound) : s.linkReset.link.Sound := h.resetLink.append _

theorem State.linkSound_countGap (h : s.link.Sound) : s.countGap.link.Sound := by
  unfold State.countGap
  split
  case h_1 => exact h
  case h_2 =>
    split
    case isTrue => exact State.linkSound_gapExpires h
    case isFalse => exact h.of_fields rfl rfl rfl rfl rfl rfl rfl rfl rfl

theorem State.linkSound_sampling (h : s.link.Sound) (x : CharSampler) : (s.sampling x).link.Sound :=
  h.of_fields rfl rfl rfl rfl rfl rfl rfl rfl rfl

theorem State.linkSound_sampleCharacter (h : s.link.Sound) (y : Sample) : (s.sampleCharacter y).link.Sound := by
  unfold State.sampleCharacter
  split
  case h_1 =>
    split
    case isTrue => exact State.linkSound_sampling h _
    case isFalse => exact h
  case h_2 =>
    split
    case isTrue => exact State.linkSound_sampling h _
    case isFalse => exact h
  case h_3 =>
    split
    case isTrue =>
      split
      case isTrue => exact State.linkSound_receiveByte (s := s.sampling .idle) (State.linkSound_sampling h _) _
      case isFalse => exact h.of_fields rfl rfl rfl rfl rfl rfl rfl rfl rfl
    case isFalse =>
      split
      case isTrue => exact State.linkSound_sampling h _
      case isFalse => exact State.linkSound_sampling h _

theorem State.linkSound_detectBreak (h : s.link.Sound) (y : Sample) : (s.detectBreak y).link.Sound := by
  unfold State.detectBreak
  cases y with
  | low => exact h.lowRun (Nat.min_le_right ..)
  | high =>
    have counted : Link.Sound { s.link with lowRun := 0 } := h.lowRun (Nat.zero_le _)
    dsimp only
    split
    case isTrue => exact State.linkSound_linkReset (s := { s with link := { s.link with lowRun := 0 } }) counted
    case isFalse => exact counted

theorem State.linkSound_receiverTurn (h : s.link.Sound) (y : Sample) : (s.receiverTurn y).link.Sound :=
  State.linkSound_detectBreak (State.linkSound_sampleCharacter (State.linkSound_countGap h) y) y

theorem State.linkSound_transmitterTurn (h : s.link.Sound) (gapFirst : Bool) : (s.transmitterTurn gapFirst).link.Sound := by
  unfold State.transmitterTurn
  split
  case h_1 => exact h.transmitNext gapFirst
  case h_2 =>
    split
    case isTrue => exact h.transmitNext gapFirst
    case isFalse => exact h.of_fields rfl rfl rfl rfl rfl rfl rfl rfl rfl

/-! ### Commands -/

/-- What the effect of a request can do to the link unit. -/
theorem State.Effect.served (e : s.Effect t) : s.link.Served t.link := by
  cases e with
  | credit n bound => exact .credited n bound
  | warm => exact .warm
  | holdEntry => exact .reported (State.enterHold_link (s.withHoldFlag true) .request)
  | holdExit => exact .reported ((Link.Reported.refl _).append _)
  | startOutput f c o =>
    refine .reported ?_
    unfold State.startOutput
    split
    case h_1 => exact .refl _
    case h_2 => exact (Link.Reported.refl _).append _
  | _ => exact .same _

theorem State.linkSound_arrived (h : s.link.Sound) (r : Request) : (s.arrived r).link.Sound := by
  unfold State.arrived
  split
  case isTrue => exact h
  case isFalse => exact h.arrive r

/-- The executor's request stands at the head of the queue, so its tag stands nowhere else once it is taken. -/
theorem State.linkSound_taken {r : Request} (h : s.link.Sound) (takes : s.takes r = true) : (s.taken r).link.Sound ∧
    (s.taken r).link.replies.length < Config.replySlots ∧ r.tag ∉ (s.taken r).link.tags := by
  have arrived := State.linkSound_arrived h r
  simp only [State.takes, State.ready, Bool.and_eq_true, decide_eq_true_eq] at takes
  obtain ⟨_, head, room⟩ := takes
  obtain ⟨rest, e⟩ : ∃ rest, (s.arrived r).link.requests = r :: rest := by
    cases hq : (s.arrived r).link.requests with
    | nil => rw [hq] at head; cases head
    | cons x rest => rw [hq] at head; cases head; exact ⟨rest, rfl⟩
  refine ⟨arrived.of_sublists (List.tail_sublist _) (.refl _), room, ?_⟩
  have distinct : (s.arrived r).link.tags.Nodup := arrived.distinct
  show r.tag ∉ (s.arrived r).link.requests.tail.map Request.tag ++ (s.arrived r).link.replay.map ReplayEntry.tag
  rw [Link.tags, e] at distinct
  rw [e]
  exact (List.nodup_cons.mp distinct).1

/-- What an executed request does before its reply takes no room and no tag. -/
theorem Link.Served.frame {k k' : Link} (g : k.Served k') : k'.replies = k.replies ∧ k'.tags.Sublist k.tags := by
  cases g with
  | reported g =>
    refine g.keeps (P := fun j => j.replies = k.replies ∧ j.tags.Sublist k.tags) (fun j b hj => ?_) ⟨rfl, .refl _⟩
    rw [Link.append_replies, Link.tags, Link.append_requests, Link.append_replay]
    exact hj
  | credited => exact ⟨rfl, .refl _⟩
  | warm => exact ⟨rfl, List.nil_sublist _⟩

theorem State.linkSound_request (h : s.link.Sound) {o : List Byte → State → Answer} (r : Request)
    (effect : ∀ t results, o r.body (s.taken r) = .succeed t results → (s.taken r).Effect t) : (s.request r o).link.Sound := by
  refine State.request_keeps (P := fun t => t.link.Sound) h (State.linkSound_arrived h r) fun takes => ?_
  obtain ⟨sound, room, fresh⟩ := State.linkSound_taken h takes
  cases answer : o r.body (s.taken r) with
  | refuse st => exact sound.answer room fresh _
  | succeed t results =>
    have served := (effect t results answer).served
    obtain ⟨replies, tags⟩ := served.frame
    exact (sound.served served).answer (by rw [replies]; exact room) (fun member => fresh (tags.subset member)) _

theorem State.linkSound_working (h : s.link.Sound) (g : t.link.Sound) : (s.working t).link.Sound := by
  unfold State.working
  split
  case isTrue => exact h
  case isFalse => exact g

theorem State.linkSound_tickWhen (h : s.link.Sound) (ch : ChannelId) (y : Sample) (happens : Bool) :
    (s.tickWhen ch y happens).link.Sound := h.reported (State.Plays.tickWhen s ch y happens).link

theorem State.linkSound_changePinHold (h : s.link.Sound) : s.changePinHold.link.Sound := by
  rcases s.changePinHold_cases with ⟨_, _, e⟩ | ⟨_, _, e⟩ | ⟨_, p, e⟩ <;> rw [e]
  · exact Link.Sound.reported (k := (s.withPinHold .asserted).link) h (State.enterHold_link _ _)
  · exact h.append _
  · exact h

theorem Link.Sound.cold (x : CharSampler) {n : Nat} (bound : n ≤ Config.breakSamples) :
    Link.Sound { Link.cold with sampler := x, lowRun := n } :=
  .of_empty rfl rfl rfl (Nat.zero_le _) (Nat.zero_le _) rfl trivial bound

theorem State.linkSound_endColdReset (s : State) (holdN lrx : Sample) : (s.endColdReset holdN lrx).link.Sound := by
  unfold State.endColdReset
  cases lrx with
  | high => exact (Link.Sound.cold .idle (Nat.zero_le _)).append _
  | low => exact (Link.Sound.cold (.sampling 0 []) (by decide)).append _

/-- Every command keeps the link unit sound. -/
theorem exec_linkSound {i : Instr} (h : s.link.Sound) (e : exec i s = .next t) : t.link.Sound := by
  cases i <;> simp only [exec] at e
  case badKind kind tag body =>
    cases e
    split
    · exact h
    · exact State.linkSound_request h _ fun t results answer => nomatch answer
  case frameEnd =>
    cases e
    refine State.linkSound_working h ?_
    split
    · exact State.linkSound_judge h _ _ _
    · exact h
  case badLen =>
    cases e
    refine State.linkSound_working h ?_
    split
    · exact State.linkSound_notice (s := s.receiving .hunting) (State.linkSound_receiving h trivial) _
    · exact h
  case gapTimeout => cases e; exact State.linkSound_working h (State.linkSound_gapExpires h)
  case linkReset => cases e; exact State.linkSound_working h (State.linkSound_linkReset h)
  case transmitterFree => cases e; exact State.linkSound_working h (h.transmitNext _)
  case coldReset => cases e; exact s.linkSound_endColdReset _ _
  case pinHoldChange => cases e; exact State.linkSound_working h (State.linkSound_changePinHold h)
  case byteArrives => cases e; exact State.linkSound_working h (State.linkSound_receiveByte h _)
  case framingError =>
    cases e
    exact State.linkSound_working h (h.of_fields rfl rfl rfl rfl rfl rfl rfl rfl rfl)
  case channelTick => cases e; exact State.linkSound_tickWhen h _ _ _
  case pendingDeliveryApplied => cases e; exact State.linkSound_tickWhen h _ _ _
  case enterRunning => cases e; exact State.linkSound_tickWhen h _ _ _
  case segmentEnd => cases e; exact State.linkSound_tickWhen h _ _ _
  case edgeAccepted => cases e; exact State.linkSound_tickWhen h _ _ _
  case timeoutExpiry => cases e; exact State.linkSound_tickWhen h _ _ _
  all_goals
    cases e
    exact State.linkSound_request h _ fun t results answer => owner_effect (by simp [owners]) answer

theorem State.linkSound_kept : KeptByTickParts fun s => s.link.Sound where
  script _ _ _ h := h
  resetRun _ _ h := h
  enterCold _ _ := Link.Sound.cold .idle (Nat.zero_le _)
  endCold s holdN lrx _ := s.linkSound_endColdReset holdN lrx
  clock _ h := h
  settle _ h := h.settleGap
  turn i u s hu h := by
    cases u with
    | executor =>
      show s.executorTurn.link.Sound
      unfold State.executorTurn
      split
      case h_1 => exact h
      case h_2 =>
        split
        case isFalse => exact h
        case isTrue =>
          unfold State.afterCommand
          split
          case h_1 e => exact exec_linkSound h e
          case h_2 => exact h
          case h_3 => exact h
    | receiver => exact State.linkSound_receiverTurn h i.lrx
    | transmitter => exact State.linkSound_transmitterTurn h i.gapFirst
    | holdFilter =>
      show (s.holdTurn i.holdN).link.Sound
      unfold State.holdTurn
      split
      case isTrue => exact h
      case isFalse =>
        split
        case isTrue => exact State.linkSound_changePinHold h
        case isFalse => exact h
    | channel ch => exact absurd rfl (hu ch)
  channel _ _ _ h := h
  report _ b h := h.append b

end

/-- Settles O59: every command, and every part of a base tick, keeps the link unit sound. -/
theorem linkStaysSound : Obligations.LinkStaysSound := by
  intro s t bounded distinct consecutive e
  obtain ⟨bounded, distinct, consecutive⟩ := State.linkSound_kept.step (fun _ _ h => h)
    (fun _ _ _ h e => exec_linkSound h e) ⟨bounded, distinct, consecutive⟩ e
  exact ⟨bounded, distinct, consecutive⟩

end Sys2Proof.Machine
end

section
/-! SUPPORT. The requests that name a channel alone, one clause at a time: UNBIND (R36), FREEZE (R37), CLEAR_CHANNEL (R38, R39),
QUERY_CHANNEL (R40), UNSTAGE (R85), STOP (R45); and BIND (R35). -/

namespace Sys2Proof.Machine

theorem exec_bind (tag : Byte) (body : List Byte) (s : State) :
    exec (.bind tag body) s = .next (s.request ⟨0x20, tag, body⟩ bind) := rfl

theorem exec_unbind (tag : Byte) (body : List Byte) (s : State) :
    exec (.unbind tag body) s = .next (s.request ⟨0x21, tag, body⟩ unbind) := rfl

theorem exec_freeze (tag : Byte) (body : List Byte) (s : State) :
    exec (.freeze tag body) s = .next (s.request ⟨0x24, tag, body⟩ freeze) := rfl

theorem exec_clearChannel (tag : Byte) (body : List Byte) (s : State) :
    exec (.clearChannel tag body) s = .next (s.request ⟨0x25, tag, body⟩ clearChannel) := rfl

theorem exec_queryChannel (tag : Byte) (body : List Byte) (s : State) :
    exec (.queryChannel tag body) s = .next (s.request ⟨0x26, tag, body⟩ queryChannel) := rfl

theorem exec_unstage (tag : Byte) (body : List Byte) (s : State) :
    exec (.unstage tag body) s = .next (s.request ⟨0x29, tag, body⟩ unstage) := rfl

theorem exec_stop (tag : Byte) (body : List Byte) (s : State) :
    exec (.stop tag body) s = .next (s.request ⟨0x2B, tag, body⟩ stop) := rfl

/-! ### Bodies of another length (R165) -/

theorem bind_badLength (body : List Byte) (s : State) (h : body.length ≠ 4) : bind body s = .refuse .badLength := by
  unfold bind
  split
  · exact absurd rfl h
  · rfl

theorem unbind_badLength (body : List Byte) (s : State) (h : body.length ≠ 1) : unbind body s = .refuse .badLength := by
  match body, h with
  | [], _ => rfl
  | _ :: _ :: _, _ => rfl

theorem freeze_badLength (body : List Byte) (s : State) (h : body.length ≠ 1) : freeze body s = .refuse .badLength := by
  match body, h with
  | [], _ => rfl
  | _ :: _ :: _, _ => rfl

theorem clearChannel_badLength (body : List Byte) (s : State) (h : body.length ≠ 1) :
    clearChannel body s = .refuse .badLength := by
  match body, h with
  | [], _ => rfl
  | _ :: _ :: _, _ => rfl

theorem queryChannel_badLength (body : List Byte) (s : State) (h : body.length ≠ 1) :
    queryChannel body s = .refuse .badLength := by
  match body, h with
  | [], _ => rfl
  | _ :: _ :: _, _ => rfl

theorem unstage_badLength (body : List Byte) (s : State) (h : body.length ≠ 1) : unstage body s = .refuse .badLength := by
  match body, h with
  | [], _ => rfl
  | _ :: _ :: _, _ => rfl

theorem stop_badLength (body : List Byte) (s : State) (h : body.length ≠ 1) : stop body s = .refuse .badLength := by
  match body, h with
  | [], _ => rfl
  | _ :: _ :: _, _ => rfl

/-! ### BIND -/

theorem roleOf_eq_none {b : Byte} (h : 2 ≤ b.toNat) : roleOf b = none := by
  simp only [roleOf, if_neg (byte_ne_of_le h 0 (by decide)), if_neg (byte_ne_of_le h 1 (by decide))]

/-- The role a BIND names, with the values a bound channel starts from (R35). -/
theorem roleOf_of_lt {b : Byte} (h : b.toNat < 2) :
    roleOf b = some (if b = 0 then .output (OutputRole.fresh .low) else .input InputRole.fresh) := by
  unfold roleOf
  by_cases zero : b = 0
  · rw [if_pos zero, if_pos zero]
  · have pos : b.toNat ≠ 0 := fun e => zero (BitVec.eq_of_toNat_eq e)
    have one : b = 1 := BitVec.eq_of_toNat_eq (Nat.le_antisymm (Nat.le_of_lt_succ h) (Nat.pos_of_ne_zero pos))
    rw [if_neg zero, if_pos one, if_neg zero]

section
variable {chb rb pb tb : Byte} {s : State} {ch : ChannelId} {ro : Role} {p : PinId} {k : TimebaseId} {c : Channel}

theorem bind_badField (h : idOf 16 chb = none ∨ roleOf rb = none ∨ idOf 20 pb = none ∨ idOf 4 tb = none) :
    bind [chb, rb, pb, tb] s = .refuse .badField := by
  simp only [bind]
  split
  case h_1 hch hr hp hk => simp only [hch, hr, hp, hk, reduceCtorEq, or_self] at h
  case h_2 => rfl

/-- R35 checks 3 and 4: the channel is bound. -/
theorem bind_bound (hch : idOf 16 chb = some ch) (hr : roleOf rb = some ro) (hp : idOf 20 pb = some p)
    (hk : idOf 4 tb = some k) (hc : s.channels[ch] = some c) :
    bind [chb, rb, pb, tb] s = .refuse (if c.frozen then .frozen else .badState) := by
  simp only [bind, hch, hr, hp, hk, hc]
  split <;> rfl

theorem bind_conflict (hch : idOf 16 chb = some ch) (hr : roleOf rb = some ro) (hp : idOf 20 pb = some p)
    (hk : idOf 4 tb = some k) (hc : s.channels[ch] = none) (held : s.pinTable[p] ≠ none) :
    bind [chb, rb, pb, tb] s = .refuse .conflict := by
  simp only [bind, hch, hr, hp, hk, hc, if_pos held]

/-- R35: the pin table gives the pin to the channel, whose record is that of a channel just bound. -/
theorem bind_binds (hch : idOf 16 chb = some ch) (hr : roleOf rb = some ro) (hp : idOf 20 pb = some p)
    (hk : idOf 4 tb = some k) (hc : s.channels[ch] = none) (vacant : s.pinTable[p] = none) :
    bind [chb, rb, pb, tb] s =
      .succeed { s with pinTable := s.pinTable.set p (some ch),
                        channels := s.channels.set ch (some (Channel.bound ro p k s.time)) } [] := by
  simp only [bind, hch, hr, hp, hk, hc, if_neg (not_not.mpr vacant)]

end

/-! ### The record in a reply (R168) -/

/-- The output-role part, with each optional field's bytes beside it. -/
theorem outputRoleBytes_fields (o : OutputRole) :
    outputRoleBytes o =
      [levelByte o.idleLevel] ++ (match o.active with | none => [0xFF] | some p => [idByte p]) ++
        (match o.staged with | none => [0xFF, 0xFF] | some g => [idByte g.pattern, swapPointByte g.point]) ++
        [byte1 o.segIndex] ++ (match o.ticksLeft with | none => [0, 0, 0] | some n => [1] ++ bytes2 (n - 1)) ++
        bytes2 o.reps ++ (match o.doneLevel with | none => [0xFF] | some l => [levelByte l]) := by
  obtain ⟨_, active, staged, _, ticksLeft, _, doneLevel⟩ := o
  cases active <;> cases staged <;> cases ticksLeft <;> cases doneLevel <;> rfl

/-- The input-role part, with each optional field's bytes beside it. -/
theorem inputRoleBytes_fields (i : InputRole) :
    inputRoleBytes i =
      [edgeByte i.edgeSelect] ++ bytes2 i.window ++ bytes2 i.timeoutWindow ++
        [timeoutActionByte i.timeoutAction, modeByte i.mode] ++ bytes2 i.limit ++
        (match i.accepted with | none => [0xFF] | some a => [sampleByte a]) ++
        (match i.qual with
          | none => [0, 0xFF, 0, 0, 0, 0, 0, 0, 0, 0]
          | some q => [1, sampleByte q.candidate] ++ timeBytes q.start ++ bytes2 q.count) ++
        bytes2 i.captures ++
        (match i.lastCapture with | none => [0, 0, 0, 0, 0, 0, 0] | some time => [1] ++ timeBytes time) ++
        (match i.timeoutLeft with | none => [0, 0, 0] | some n => [1] ++ bytes2 n) := by
  obtain ⟨_, _, _, _, _, _, accepted, qual, _, lastCapture, timeoutLeft⟩ := i
  cases accepted <;> cases qual <;> cases lastCapture <;> cases timeoutLeft <;> rfl

/-- The common part, up to the number of deliveries. -/
theorem channelBytes_common (ch : ChannelId) (c : Channel) :
    [idByte ch, activityByte c.activity, roleByte c.role, idByte c.pin, idByte c.timebase, flagByte c.frozen,
        conditionByte c.startCondition, flagByte c.rearm, haltByte c.haltReason] ++ startConditionBytes c.startCondition =
      [idByte ch, activityByte c.activity] ++ (match c.role with | .output _ => [0] | .input _ => [1]) ++
        [idByte c.pin, idByte c.timebase, flagByte c.frozen, conditionByte c.startCondition, flagByte c.rearm,
          haltByte c.haltReason] ++
        (match c.startCondition with | .next time => timeBytes time | .at time => timeBytes time | .trigger => []) := by
  cases c.role <;> cases c.startCondition <;> rfl

/-! ### The requests on one channel -/

section
variable {chb : Byte} {s : State} {ch : ChannelId} {c : Channel} {o : OutputRole} {i : InputRole}

theorem unbind_badField (h : 16 ≤ chb.toNat) : unbind [chb] s = .refuse .badField := by
  simp only [unbind, idOf_eq_none h]

theorem unbind_free (hch : chb.toNat = ch.val) (hc : s.channels[ch] = none) : unbind [chb] s = .refuse .badState := by
  simp only [unbind, idOf_eq_some.mpr hch, hc]

theorem unbind_frozen (hch : chb.toNat = ch.val) (hc : s.channels[ch] = some c) (hf : c.frozen = true) :
    unbind [chb] s = .refuse .frozen := by
  simp only [unbind, idOf_eq_some.mpr hch, hc, if_pos hf]

theorem unbind_inPlay (hch : chb.toNat = ch.val) (hc : s.channels[ch] = some c) (hf : c.frozen = false)
    (hp : c.inPlay = true) : unbind [chb] s = .refuse .badState := by
  simp only [unbind, idOf_eq_some.mpr hch, hc, hf, Bool.false_eq_true, if_false, if_pos hp]

/-- R36: the channel becomes FREE, and the entries removed from each table are counted. -/
theorem unbind_frees (hch : chb.toNat = ch.val) (hc : s.channels[ch] = some c) (hf : c.frozen = false)
    (hp : c.inPlay = false) :
    unbind [chb] s =
      .succeed (s.freeChannel ch c) [byte1 (s.fabric.emittersOf ch).length, byte1 (s.fabric.listenersOf ch).length] := by
  simp only [unbind, idOf_eq_some.mpr hch, hc, hf, hp, Bool.false_eq_true, if_false]

/-- The lines whose emitter has the channel as source. -/
theorem Fabric.emittersOf_eq (f : Fabric) (ch : ChannelId) :
    f.emittersOf ch = lines.filter fun l => (f.emitters[l]).any fun e => decide (e.source = ch) := by
  refine congrArg (lines.filter ·) (funext fun l => ?_)
  cases f.emitters[l] <;> rfl

theorem freeze_badField (h : 16 ≤ chb.toNat) : freeze [chb] s = .refuse .badField := by
  simp only [freeze, idOf_eq_none h]

theorem freeze_free (hch : chb.toNat = ch.val) (hc : s.channels[ch] = none) : freeze [chb] s = .refuse .badState := by
  simp only [freeze, idOf_eq_some.mpr hch, hc]

theorem freeze_freezes (hch : chb.toNat = ch.val) (hc : s.channels[ch] = some c) :
    freeze [chb] s = .succeed (s.setChannel ch (some { c with frozen := true })) [] := by
  simp only [freeze, idOf_eq_some.mpr hch, hc]

theorem clearChannel_badField (h : 16 ≤ chb.toNat) : clearChannel [chb] s = .refuse .badField := by
  simp only [clearChannel, idOf_eq_none h]

theorem clearChannel_free (hch : chb.toNat = ch.val) (hc : s.channels[ch] = none) :
    clearChannel [chb] s = .refuse .badState := by
  simp only [clearChannel, idOf_eq_some.mpr hch, hc]

/-- R38. -/
theorem clearChannel_frees (hch : chb.toNat = ch.val) (hc : s.channels[ch] = some c) (hf : c.frozen = false) :
    clearChannel [chb] s = .succeed (s.freeChannel ch c) [0] := by
  simp only [clearChannel, idOf_eq_some.mpr hch, hc, hf, Bool.false_eq_true, if_false]

/-- R39. -/
theorem clearChannel_keeps (hch : chb.toNat = ch.val) (hc : s.channels[ch] = some c) (hf : c.frozen = true) :
    clearChannel [chb] s =
      .succeed ({ s with store := s.store.releaseRole c.role }.setChannel ch (some (c.cleared s.time))) [1] := by
  simp only [clearChannel, idOf_eq_some.mpr hch, hc, if_pos hf]

theorem queryChannel_badField (h : 16 ≤ chb.toNat) : queryChannel [chb] s = .refuse .badField := by
  simp only [queryChannel, idOf_eq_none h]

theorem queryChannel_free (hch : chb.toNat = ch.val) (hc : s.channels[ch] = none) :
    queryChannel [chb] s = .succeed s [chb, 0] := by
  simp only [queryChannel, idOf_eq_some.mpr hch, hc]

theorem queryChannel_bound (hch : chb.toNat = ch.val) (hc : s.channels[ch] = some c) :
    queryChannel [chb] s = .succeed s (channelBytes ch c) := by
  simp only [queryChannel, idOf_eq_some.mpr hch, hc]

theorem unstage_badField (h : 16 ≤ chb.toNat) : unstage [chb] s = .refuse .badField := by
  simp only [unstage, idOf_eq_none h]

theorem unstage_free (hch : chb.toNat = ch.val) (hc : s.channels[ch] = none) : unstage [chb] s = .refuse .badState := by
  simp only [unstage, idOf_eq_some.mpr hch, hc]

theorem unstage_badRole (hch : chb.toNat = ch.val) (hc : s.channels[ch] = some c) (hr : c.role = .input i) :
    unstage [chb] s = .refuse .badRole := by
  simp only [unstage, idOf_eq_some.mpr hch, hc, hr]

theorem unstage_notFound (hch : chb.toNat = ch.val) (hc : s.channels[ch] = some c) (hr : c.role = .output o)
    (hg : o.staged = none) : unstage [chb] s = .refuse .notFound := by
  simp only [unstage, idOf_eq_some.mpr hch, hc, hr, hg]

/-- R85: the staged reference alone is given up. -/
theorem unstage_releases {g : Staged} (hch : chb.toNat = ch.val) (hc : s.channels[ch] = some c) (hr : c.role = .output o)
    (hg : o.staged = some g) :
    unstage [chb] s =
      .succeed ({ s with store := s.store.release g.pattern }.setChannel ch
        (some { c with role := .output { o with staged := none } })) [idByte g.pattern] := by
  simp only [unstage, idOf_eq_some.mpr hch, hc, hr, hg]

theorem stop_badField (h : 16 ≤ chb.toNat) : stop [chb] s = .refuse .badField := by
  simp only [stop, idOf_eq_none h]

theorem stop_free (hch : chb.toNat = ch.val) (hc : s.channels[ch] = none) : stop [chb] s = .refuse .badState := by
  simp only [stop, idOf_eq_some.mpr hch, hc]

theorem stop_atRest (hch : chb.toNat = ch.val) (hc : s.channels[ch] = some c) (hp : c.inPlay = false) :
    stop [chb] s = .succeed s [activityByte c.activity] := by
  simp only [stop, idOf_eq_some.mpr hch, hc, hp, Bool.false_eq_true, if_false]

/-- R45: a channel in play is halted. -/
theorem stop_halts (hch : chb.toNat = ch.val) (hc : s.channels[ch] = some c) (hp : c.inPlay = true) :
    stop [chb] s = .succeed (s.setChannel ch (some (c.halt .request))) [activityByte c.activity] := by
  simp only [stop, idOf_eq_some.mpr hch, hc, if_pos hp]

end

end Sys2Proof.Machine
end

section
/-! SUPPORT. The statements on the requests that name a channel alone, and on BIND. -/

namespace Sys2Proof.Machine

/-- Settles O14: the checks of R35 in turn; the role byte chooses the role's fresh fields. -/
theorem bindMakesRecord : Obligations.BindMakesRecord := by
  refine fun tag chb rb pb tb s => ⟨?_, ?_⟩
  · exact s.refusesLength_of_owner (exec_bind tag · s) bind_badLength
  intro r t x h
  have answer {a : Answer} (ha : bind [chb, rb, pb, tb] t = a) : x = .next (t.conclude r a) :=
    exec_of_takes (exec_bind tag [chb, rb, pb, tb] s) h ha
  rw [← s.taken_channels r, ← s.taken_pinTable r, ← s.taken_time r]
  refine ⟨fun bad => ?_, fun ch p k hchb hrb hpb htb => ?_⟩
  · exact answer (bind_badField (bad.imp idOf_eq_none (.imp roleOf_eq_none (.imp idOf_eq_none idOf_eq_none))))
  have hch := idOf_eq_some.mpr hchb
  have hp := idOf_eq_some.mpr hpb
  have hk := idOf_eq_some.mpr htb
  have hr := roleOf_of_lt hrb
  refine ⟨fun c hc => ?_, fun free held => ?_, fun free vacant => ?_⟩
  · exact answer (bind_bound hch hr hp hk hc)
  · exact answer (bind_conflict hch hr hp hk free held)
  · exact answer (bind_binds hch hr hp hk free vacant)

/-- Settles O15: the checks of R36 in turn, and the channel made FREE. -/
theorem unbindFreesChannel : Obligations.UnbindFreesChannel := by
  refine fun tag chb s => ⟨?_, ?_⟩
  · exact s.refusesLength_of_owner (exec_unbind tag · s) unbind_badLength
  intro r t x h
  have answer {a : Answer} (ha : unbind [chb] t = a) : x = .next (t.conclude r a) :=
    exec_of_takes (exec_unbind tag [chb] s) h ha
  rw [← s.taken_channels r, ← s.taken_fabric r]
  refine ⟨fun big => answer (unbind_badField big), fun ch hch => ⟨fun free => ?_, fun c hc => ⟨fun hf => ?_, fun hf hp => ?_,
    fun hf hp => ⟨t.freeChannel ch c, t.freeChannel_freed ch c, ?_⟩⟩⟩⟩
  · exact answer (unbind_free hch free)
  · exact answer (unbind_frozen hch hc hf)
  · exact answer (unbind_inPlay hch hc hf hp)
  · rw [answer (unbind_frees hch hc hf hp), Fabric.emittersOf_eq]
    rfl

/-- Settles O16: the frozen flag chooses between the channel made FREE and the clean IDLE. -/
theorem clearChannelDropsPlay : Obligations.ClearChannelDropsPlay := by
  refine fun tag chb s => ⟨?_, ?_⟩
  · exact s.refusesLength_of_owner (exec_clearChannel tag · s) clearChannel_badLength
  intro r t x h
  have answer {a : Answer} (ha : clearChannel [chb] t = a) : x = .next (t.conclude r a) :=
    exec_of_takes (exec_clearChannel tag [chb] s) h ha
  rw [← s.taken_channels r, ← s.taken_time r]
  refine ⟨fun big => answer (clearChannel_badField big), fun ch hch => ⟨fun free => ?_, fun c hc => ⟨fun hf => ?_, fun hf => ?_⟩⟩⟩
  · exact answer (clearChannel_free hch free)
  · exact ⟨t.freeChannel ch c, t.freeChannel_freed ch c, answer (clearChannel_frees hch hc hf)⟩
  · refine ⟨_, t.store.releaseRole_recounted c.role, (answer (clearChannel_keeps hch hc hf)).trans ?_⟩
    rw [← hf]
    cases hr : c.role <;> simp only [Channel.cleared, hr] <;> rfl

/-- Settles O17: the checks of R37 in turn, and the flag set. -/
theorem freezeSetsFlag : Obligations.FreezeSetsFlag := by
  refine fun tag chb s => ⟨?_, ?_⟩
  · exact s.refusesLength_of_owner (exec_freeze tag · s) freeze_badLength
  intro r t x h
  have answer {a : Answer} (ha : freeze [chb] t = a) : x = .next (t.conclude r a) :=
    exec_of_takes (exec_freeze tag [chb] s) h ha
  rw [← s.taken_channels r]
  refine ⟨fun big => answer (freeze_badField big), fun ch hch => ⟨fun free => ?_, fun c hc => ?_⟩⟩
  · exact answer (freeze_free hch free)
  · exact answer (freeze_freezes hch hc)

/-- Settles O18: the three parts of the record in the order of R168, told of the taken state, which is kept. -/
theorem queryChannelTellsRecord : Obligations.QueryChannelTellsRecord := by
  refine fun tag chb s => ⟨?_, ?_⟩
  · exact s.refusesLength_of_owner (exec_queryChannel tag · s) queryChannel_badLength
  intro r t x h
  have answer {a : Answer} (ha : queryChannel [chb] t = a) : x = .next (t.conclude r a) :=
    exec_of_takes (exec_queryChannel tag [chb] s) h ha
  rw [← s.taken_channels r]
  refine ⟨fun big => answer (queryChannel_badField big), fun ch hch => ⟨fun free => ?_, fun c hc => ?_⟩⟩
  · exact answer (queryChannel_free hch free)
  intro deliveries common role
  have hid : idByte ch = chb := idByte_eq_of_toNat (by decide) hch
  rw [answer (queryChannel_bound hch hc), State.conclude_succeed, channelBytes, channelBytes_common, hid]
  refine congrArg (fun bytes => Host.Outcome.next (t.answered r .ok bytes)) (congrArg₂ (· ++ ·) rfl ?_)
  simp only [role]
  cases c.role with
  | output o => exact outputRoleBytes_fields o
  | input i => exact inputRoleBytes_fields i

/-- Settles O21: the checks of R85 in turn, and the staged reference released. -/
theorem unstageReleasesStaged : Obligations.UnstageReleasesStaged := by
  refine fun tag chb s => ⟨?_, ?_⟩
  · exact s.refusesLength_of_owner (exec_unstage tag · s) unstage_badLength
  intro r t x h
  have answer {a : Answer} (ha : unstage [chb] t = a) : x = .next (t.conclude r a) :=
    exec_of_takes (exec_unstage tag [chb] s) h ha
  rw [← s.taken_channels r]
  refine ⟨fun big => answer (unstage_badField big), fun ch hch => ⟨fun free => ?_, fun c hc => ⟨fun i hr => ?_,
    fun o hr => ⟨fun absent => ?_, fun g hg => ⟨_, t.store.release_recounted g.pattern, ?_⟩⟩⟩⟩⟩
  · exact answer (unstage_free hch free)
  · exact answer (unstage_badRole hch hc hr)
  · exact answer (unstage_notFound hch hc hr absent)
  · exact answer (unstage_releases hch hc hr hg)

/-- Settles O24: STOP at rest tells the state alone, and in play halts the channel first. -/
theorem stopHaltsChannelInPlay : Obligations.StopHaltsChannelInPlay := by
  refine fun tag chb s => ⟨?_, ?_⟩
  · exact s.refusesLength_of_owner (exec_stop tag · s) stop_badLength
  intro r t x h
  have answer {a : Answer} (ha : stop [chb] t = a) : x = .next (t.conclude r a) :=
    exec_of_takes (exec_stop tag [chb] s) h ha
  rw [← s.taken_channels r]
  refine ⟨fun big => answer (stop_badField big), fun ch hch => ⟨fun free => ?_, fun c hc => ⟨fun rest => ?_, fun play => ?_⟩⟩⟩
  · exact answer (stop_free hch free)
  · exact answer (stop_atRest hch hc rest)
  · exact answer (stop_halts hch hc play)

end Sys2Proof.Machine
end

section
/-! SUPPORT. The requests of the link unit, the timebase unit and the hold unit one clause at a time: GRANT (R156), DEVICE_RESET (R160),
SET_TIMEBASE (R26, R27), HOLD and RELEASE (R135, R136); and what each block's warm reset leaves (R18, R31, R51, R129). -/

namespace Sys2Proof.Machine

theorem exec_grant (tag : Byte) (body : List Byte) (s : State) :
    exec (.grant tag body) s = .next (s.request ⟨0x03, tag, body⟩ grant) := rfl

theorem exec_deviceReset (tag : Byte) (body : List Byte) (s : State) :
    exec (.deviceReset tag body) s = .next (s.request ⟨0x04, tag, body⟩ deviceReset) := rfl

theorem exec_setTimebase (tag : Byte) (body : List Byte) (s : State) :
    exec (.setTimebase tag body) s = .next (s.request ⟨0x05, tag, body⟩ setTimebase) := rfl

theorem exec_hold (tag : Byte) (body : List Byte) (s : State) :
    exec (.hold tag body) s = .next (s.request ⟨0x06, tag, body⟩ holdRequest) := rfl

theorem exec_release (tag : Byte) (body : List Byte) (s : State) :
    exec (.release tag body) s = .next (s.request ⟨0x07, tag, body⟩ releaseRequest) := rfl

theorem exec_pinHoldChange (s : State) : exec .pinHoldChange s = .next (s.working s.changePinHold) := rfl

/-- Outside cold reset a row happens. -/
theorem State.working_of_out {s : State} (h : s.inColdReset = false) (t : State) : s.working t = t := by
  rw [State.working, h]
  rfl

/-! ### Bodies of another length (R165) -/

theorem grant_badLength (body : List Byte) (s : State) (h : body.length ≠ 1) : grant body s = .refuse .badLength := by
  match body, h with
  | [], _ => rfl
  | _ :: _ :: _, _ => rfl

theorem deviceReset_badLength (body : List Byte) (s : State) (h : body.length ≠ 0) :
    deviceReset body s = .refuse .badLength := by
  match body, h with
  | _ :: _, _ => rfl

theorem setTimebase_badLength (body : List Byte) (s : State) (h : body.length ≠ 3) :
    setTimebase body s = .refuse .badLength := by
  unfold setTimebase
  split
  · exact absurd rfl h
  · rfl

theorem holdRequest_badLength (body : List Byte) (s : State) (h : body.length ≠ 0) :
    holdRequest body s = .refuse .badLength := by
  match body, h with
  | _ :: _, _ => rfl

theorem releaseRequest_badLength (body : List Byte) (s : State) (h : body.length ≠ 0) :
    releaseRequest body s = .refuse .badLength := by
  match body, h with
  | _ :: _, _ => rfl

/-! ### GRANT -/

theorem grant_badField {n : Byte} {s : State} (h : n.toNat = 0 ∨ Config.maxCredit < n.toNat) :
    grant [n] s = .refuse .badField := by
  simp only [grant, if_pos h]

theorem grant_raises {n : Byte} {s : State} (lo : 1 ≤ n.toNat) (hi : n.toNat ≤ Config.maxCredit) :
    grant [n] s = .succeed { s with link := { s.link with credit := min (s.link.credit + n.toNat) Config.maxCredit } }
      [byte1 (min (s.link.credit + n.toNat) Config.maxCredit)] := by
  have valid : ¬(n.toNat = 0 ∨ Config.maxCredit < n.toNat) := by omega
  simp only [grant, if_neg valid]

/-! ### SET_TIMEBASE -/

/-- No channel bound to the timebase has the property. -/
theorem State.anyOn_eq_false {s : State} {t : TimebaseId} {p : Channel → Bool} :
    s.anyOn t p = false ↔ ∀ (ch : ChannelId) (c : Channel), s.channels[ch] = some c → c.timebase = t → p c = false := by
  rw [← Bool.not_eq_true, State.anyOn_eq_true]
  constructor
  · exact fun h ch c hc ht => Bool.eq_false_of_not_eq_true fun hp => h ⟨ch, c, hc, ht, hp⟩
  · rintro h ⟨ch, c, hc, ht, hp⟩
    rw [h ch c hc ht] at hp
    exact absurd hp Bool.false_ne_true

section
variable {tb d1 d0 : Byte} {s : State} {k : TimebaseId}

theorem setTimebase_badField (h : 4 ≤ tb.toNat) : setTimebase [tb, d1, d0] s = .refuse .badField := by
  simp only [setTimebase, idOf_eq_none h]

theorem setTimebase_frozen (hk : tb.toNat = k.val) (hf : s.anyOn k Channel.frozen = true) :
    setTimebase [tb, d1, d0] s = .refuse .frozen := by
  simp only [setTimebase, idOf_eq_some.mpr hk, if_pos hf]

theorem setTimebase_inPlay (hk : tb.toNat = k.val) (hf : s.anyOn k Channel.frozen = false)
    (hp : s.anyOn k Channel.inPlay = true) : setTimebase [tb, d1, d0] s = .refuse .badState := by
  simp only [setTimebase, idOf_eq_some.mpr hk, hf, Bool.false_eq_true, if_false, if_pos hp]

/-- R27. -/
theorem setTimebase_restarts (hk : tb.toNat = k.val) (hf : s.anyOn k Channel.frozen = false)
    (hp : s.anyOn k Channel.inPlay = false) :
    setTimebase [tb, d1, d0] s =
      .succeed { s with timebases := s.timebases.set k (s.timebases[k].restart (number2 d1 d0 + 1)) }
        ([tb, d1, d0] ++ timeBytes s.time) := by
  simp only [setTimebase, idOf_eq_some.mpr hk, hf, hp, Bool.false_eq_true, if_false]

end

/-! ### The entry into hold in a state that another differs from in the link unit -/

section
variable {s t : State}

theorem State.LinkOnly.heldChannels (h : s.LinkOnly t) : t.heldChannels = s.heldChannels := by rw [h]; rfl

theorem State.LinkOnly.holdReports (h : s.LinkOnly t) (cause : HoldCause) : t.holdReports cause = s.holdReports cause := by
  rw [h]; rfl

theorem State.taken_linkOnly (s : State) (r : Request) : s.LinkOnly (s.taken r) := (s.arrived_linkOnly r).trans rfl

/-- The hold request flag set or cleared plays no part in the halts and reports of an entry into hold. -/
theorem State.enterHold_withHoldFlag (s : State) (b : Bool) (cause : HoldCause) :
    (s.withHoldFlag b).enterHold cause =
      { s.withHoldFlag b with channels := s.heldChannels }.reportAll (s.holdReports cause) := by
  rw [State.enterHold_eq]
  rfl

/-- Nor does the pin hold. -/
theorem State.enterHold_withPinHold (s : State) (p : PinHold) (cause : HoldCause) :
    (s.withPinHold p).enterHold cause =
      { s.withPinHold p with channels := s.heldChannels }.reportAll (s.holdReports cause) := by
  rw [State.enterHold_eq]
  rfl

/-! ### HOLD and RELEASE -/

theorem State.holdActive_iff (s : State) : s.holdActive = true ↔ s.hold.request = true ∨ s.hold.pinHold = .asserted := by
  rw [State.holdActive, Bool.or_eq_true, decide_eq_true_eq]

theorem holdRequest_of_active (h : s.holdActive = true) :
    holdRequest [] s = .succeed (s.withHoldFlag true) [1, pinHoldByte s.hold.pinHold] := by
  simp only [holdRequest, h, if_true, flagByte]

theorem holdRequest_of_inactive (h : s.holdActive = false) :
    holdRequest [] s = .succeed ((s.withHoldFlag true).enterHold .request) [0, pinHoldByte s.hold.pinHold] := by
  simp only [holdRequest, h, Bool.false_eq_true, if_false, flagByte]

theorem releaseRequest_of_end (hr : s.hold.request = true) (hp : s.hold.pinHold = .deasserted) :
    releaseRequest [] s = .succeed ((s.withHoldFlag false).exitHold .request) [1, 0] := by
  simp only [releaseRequest, hr, hp, and_self, if_true, flagByte, pinHoldByte]

theorem releaseRequest_of_other (h : s.hold.request = false ∨ s.hold.pinHold = .asserted) :
    releaseRequest [] s =
      .succeed (s.withHoldFlag false) [flagByte s.hold.request, pinHoldByte s.hold.pinHold] := by
  have stays : ¬(s.hold.request = true ∧ s.hold.pinHold = .deasserted) := by
    rintro ⟨hr, hp⟩
    rcases h with h | h
    · rw [hr] at h; cases h
    · rw [hp] at h; cases h
  simp only [releaseRequest, if_neg stays]

end

/-! ### DEVICE_RESET -/

theorem deviceReset_resets (s : State) :
    deviceReset [] s = .succeed s.warmReset [byte1 s.link.requests.length, byte1 s.frozenCount] := rfl

section
variable {s t : State} {ch : ChannelId}

/-- What lies outside the blocks that a warm reset resets is kept. -/
theorem State.LinkOnly.warmReset_frame (h : s.LinkOnly t) :
    t.warmReset = { s with timebases := t.warmReset.timebases, store := t.warmReset.store, channels := t.warmReset.channels,
                           pinTable := t.warmReset.pinTable, fabric := t.warmReset.fabric,
                           hold := { s.hold with request := false }, link := t.warmReset.link } := by
  rw [h]
  rfl

/-- R51: an unfrozen channel becomes FREE. -/
theorem State.warmReset_unfrozen (h : s.isFrozen ch = false) : s.warmReset.channels[ch] = none := by
  rw [State.warmReset, getElem_ofFn_fin]
  cases hc : s.channels[ch] with
  | none => rfl
  | some c =>
    have unfrozen : c.frozen = false := (State.isFrozen_of_some hc).symm.trans h
    simp only [resetChannel, unfrozen, Bool.false_eq_true, if_false]

/-- R51: a frozen channel returns to a clean IDLE. -/
theorem State.warmReset_frozen {c : Channel} (hc : s.channels[ch] = some c) (hf : c.frozen = true) :
    s.warmReset.channels[ch] = some (c.cleared s.time) := by
  rw [State.warmReset, getElem_ofFn_fin, hc, resetChannel, if_pos hf]

/-- R51: the pins of frozen channels alone stay bound. -/
theorem State.warmReset_pin (s : State) (p : PinId) (ch : ChannelId) :
    s.warmReset.pinTable[p] = some ch ↔ s.pinTable[p] = some ch ∧ s.isFrozen ch = true := by
  rw [State.warmReset, getElem_ofFn_fin, State.resetPin]
  cases s.pinTable[p] with
  | none => exact ⟨nofun, fun h => nomatch h.1⟩
  | some x =>
    cases hx : s.isFrozen x
    · simp only [hx, Bool.false_eq_true, if_false, reduceCtorEq, Option.some.injEq, false_iff, not_and]
      rintro rfl
      exact hx ▸ Bool.false_ne_true
    · simp only [hx, if_true, Option.some.injEq, iff_self_and]
      rintro rfl
      exact hx

/-- R129: the emitters of frozen sources alone stay. -/
theorem State.warmReset_emitter (s : State) (l : LineId) (e : Emitter) :
    s.warmReset.fabric.emitters[l] = some e ↔ s.fabric.emitters[l] = some e ∧ s.isFrozen e.source = true := by
  rw [State.warmReset, State.resetFabric, getElem_ofFn_fin]
  cases s.fabric.emitters[l] with
  | none => exact ⟨nofun, fun h => nomatch h.1⟩
  | some x =>
    cases hx : s.isFrozen x.source
    · simp only [hx, Bool.false_eq_true, if_false, reduceCtorEq, Option.some.injEq, false_iff, not_and]
      rintro rfl
      exact hx ▸ Bool.false_ne_true
    · simp only [hx, if_true, Option.some.injEq, iff_self_and]
      rintro rfl
      exact hx

/-- R129: the listeners of frozen targets alone stay. -/
theorem State.warmReset_listener (s : State) (l : LineId) (ch : ChannelId) (a : Action) :
    s.warmReset.fabric.listeners[l][ch] = some a ↔ s.fabric.listeners[l][ch] = some a ∧ s.isFrozen ch = true := by
  rw [State.warmReset, State.resetFabric, getElem_ofFn_fin, getElem_ofFn_fin]
  cases s.isFrozen ch <;> simp

/-- R31: a timebase of a frozen channel is kept. -/
theorem State.warmReset_timebase_kept {k : TimebaseId} (h : s.anyOn k Channel.frozen = true) :
    s.warmReset.timebases[k] = s.timebases[k] := by
  rw [State.warmReset, getElem_ofFn_fin, State.resetTimebase, if_pos h]

/-- R31: another timebase takes its cold divisor and restarts. -/
theorem State.warmReset_timebase_cold {k : TimebaseId} (h : s.anyOn k Channel.frozen = false) :
    s.warmReset.timebases[k] = s.timebases[k].restart (Config.coldDivisor k) := by
  rw [State.warmReset, getElem_ofFn_fin, State.resetTimebase, h]
  rfl

/-- R30: the cold divisors. -/
theorem coldDivisor_eq : ∀ k : TimebaseId, (#v[1, 100, 1000, 10000] : Vector Nat 4)[k] = Config.coldDivisor k := by decide

end

end Sys2Proof.Machine
end

section
/-! SUPPORT. The statements on the requests of the link unit, the timebase unit and the hold unit. -/

namespace Sys2Proof.Machine

/-- Settles O8: the grant is judged in the taken state, whose credit balance is that of `s`. -/
theorem grantRaisesCredit : Obligations.GrantRaisesCredit := by
  refine fun tag n s => ⟨?_, ?_⟩
  · exact s.refusesLength_of_owner (exec_grant tag · s) grant_badLength
  intro r t h
  have answer {a : Answer} (ha : grant [n] t = a) : exec (.grant tag [n]) s = .next (t.conclude r a) :=
    exec_of_takes (exec_grant tag [n] s) h ha
  rw [← s.taken_credit r]
  exact ⟨fun bad => answer (grant_badField bad), fun lo hi => answer (grant_raises lo hi)⟩

/-- Settles O9: the warm reset of the taken state, block by block. -/
theorem deviceResetResetsAllButFrozen : Obligations.DeviceResetResetsAllButFrozen := by
  refine fun tag s => ⟨?_, ?_⟩
  · exact s.refusesLength_of_owner (exec_deviceReset tag · s) deviceReset_badLength
  intro r t h
  have frame := (s.taken_linkOnly r).warmReset_frame
  have hchannels : t.channels = s.channels := s.taken_channels r
  have hfrozen : t.isFrozen = s.isFrozen := s.taken_isFrozen r
  refine ⟨t.warmReset, ?_, frame, rfl, rfl, ?_⟩
  · obtain ⟨hrequests, _, _⟩ := State.taken_queues h
    rw [exec_of_takes (exec_deviceReset tag [] s) h (deviceReset_resets _), State.conclude_succeed, State.frozenCount,
      s.taken_isFrozen, hrequests]
  rw [← s.taken_time r, ← s.taken_timebases r, ← s.taken_pinTable r, ← s.taken_fabric r, ← hchannels, ← hfrozen]
  refine ⟨fun ch unfrozen => State.warmReset_unfrozen unfrozen, fun ch c hc hf => ?_, t.warmReset_pin, t.warmReset_emitter,
    t.warmReset_listener, fun k => ⟨fun frozen => ?_, fun unfrozen => ?_⟩⟩
  · rw [State.warmReset_frozen hc hf, Channel.cleared]
    cases c.role <;> rfl
  · exact State.warmReset_timebase_kept (State.anyOn_eq_true.mpr frozen)
  · rw [State.warmReset_timebase_cold (State.anyOn_eq_false.mpr unfrozen), coldDivisor_eq]
    exact ⟨rfl, rfl, rfl⟩

/-- Settles O10: the checks of R26 in turn, on the channels bound to the timebase. -/
theorem setTimebaseRestarts : Obligations.SetTimebaseRestarts := by
  refine fun tag tb d1 d0 s => ⟨?_, ?_⟩
  · exact s.refusesLength_of_owner (exec_setTimebase tag · s) setTimebase_badLength
  intro r t x h
  have answer {a : Answer} (ha : setTimebase [tb, d1, d0] t = a) : x = .next (t.conclude r a) :=
    exec_of_takes (exec_setTimebase tag [tb, d1, d0] s) h ha
  rw [← s.taken_channels r, ← s.taken_timebases r, ← s.taken_time r]
  refine ⟨fun big => answer (setTimebase_badField big), fun k hk => ⟨fun frozen => ?_, fun unfrozen play => ?_, fun rest => ?_⟩⟩
  · exact answer (setTimebase_frozen hk (State.anyOn_eq_true.mpr frozen))
  · exact answer (setTimebase_inPlay hk (State.anyOn_eq_false.mpr unfrozen) (State.anyOn_eq_true.mpr play))
  · exact answer (setTimebase_restarts hk (State.anyOn_eq_false.mpr fun ch c hc ht => (rest ch c hc ht).1)
      (State.anyOn_eq_false.mpr fun ch c hc ht => (rest ch c hc ht).2))

/-- Settles O11: each cause of hold in each value of the other, the entry into hold being its halts and reports. -/
theorem holdBeginsAndEnds : Obligations.HoldBeginsAndEnds := by
  refine ⟨fun tag s => ⟨⟨?_, ?_⟩, ?_, ?_⟩, ?_⟩
  · exact s.refusesLength_of_owner (exec_hold tag · s) holdRequest_badLength
  · intro r t u h
    have answer {a : Answer} (ha : holdRequest [] t = a) : exec (.hold tag []) s = .next (t.conclude r a) :=
      exec_of_takes (exec_hold tag [] s) h ha
    have hhold : t.hold = s.hold := s.taken_hold r
    have link : s.LinkOnly t := s.taken_linkOnly r
    have hu : t.withHoldFlag true = u := by rw [State.withHoldFlag, hhold]
    refine ⟨fun active => ?_, fun flag pin => ?_⟩
    · rw [answer (holdRequest_of_active (t.holdActive_iff.mpr (hhold ▸ active))), State.conclude_succeed, hu, hhold]
    · have inactive : t.holdActive = false := by rw [State.holdActive, hhold, flag, pin]; rfl
      rw [answer (holdRequest_of_inactive inactive), State.conclude_succeed, State.enterHold_withHoldFlag, hu,
        link.heldChannels, link.holdReports, hhold, pin]
      rfl
  · exact s.refusesLength_of_owner (exec_release tag · s) releaseRequest_badLength
  · intro r t u h
    have answer {a : Answer} (ha : releaseRequest [] t = a) : exec (.release tag []) s = .next (t.conclude r a) :=
      exec_of_takes (exec_release tag [] s) h ha
    have hhold : t.hold = s.hold := s.taken_hold r
    have hu : t.withHoldFlag false = u := by rw [State.withHoldFlag, hhold]
    refine ⟨fun other => ?_, fun flag pin => ?_⟩
    · rw [answer (releaseRequest_of_other (hhold ▸ other)), State.conclude_succeed, hu, hhold]
    · rw [answer (releaseRequest_of_end (hhold ▸ flag) (hhold ▸ pin)), State.conclude_succeed, State.exitHold, hu,
        ← s.taken_time r]
  · intro s out a d
    rw [exec_pinHoldChange, State.working_of_out out]
    refine ⟨fun pin flag => ?_, fun pin flag => ?_, fun pin flag => ?_, fun pin flag => ?_⟩
    · simp only [State.changePinHold, pin, flag, Bool.false_eq_true, if_false, State.enterHold_withPinHold]
      rfl
    · simp only [State.changePinHold, pin, flag, if_true]
      rfl
    · simp only [State.changePinHold, pin, flag, if_true]
      rfl
    · simp only [State.changePinHold, pin, flag, Bool.false_eq_true, if_false]
      rfl

end Sys2Proof.Machine
end

section
/-! SUPPORT. ADD_LISTENER and REMOVE_LISTENER (R120, R121), and the body and the effect of START (R41, R42), one clause at a time. -/

namespace Sys2Proof.Machine

theorem exec_addListener (tag : Byte) (body : List Byte) (s : State) :
    exec (.addListener tag body) s = .next (s.request ⟨0x32, tag, body⟩ addListener) := rfl

theorem exec_removeListener (tag : Byte) (body : List Byte) (s : State) :
    exec (.removeListener tag body) s = .next (s.request ⟨0x33, tag, body⟩ removeListener) := rfl

theorem exec_start (tag : Byte) (body : List Byte) (s : State) :
    exec (.start tag body) s = .next (s.request ⟨0x2A, tag, body⟩ start) := rfl

/-! ### ADD_LISTENER and REMOVE_LISTENER -/

theorem actionOf_eq_none {b : Byte} (h : 5 ≤ b.toNat) : actionOf b = none := by
  simp only [actionOf, if_neg (byte_ne_of_le h 0 (by decide)), if_neg (byte_ne_of_le h 1 (by decide)),
    if_neg (byte_ne_of_le h 2 (by decide)), if_neg (byte_ne_of_le h 3 (by decide)), if_neg (byte_ne_of_le h 4 (by decide))]

/-- The actions that a role does not accept are those of the other role alone. -/
theorem Role.accepts_eq_false_iff (r : Role) (a : Action) :
    r.accepts a = false ↔ (∃ i, r = .input i ∧ a ∈ [Action.restart, .swap]) ∨ (∃ o, r = .output o ∧ a = .stamp) := by
  cases r <;> cases a <;> simp [Role.accepts]

theorem State.pendingFrom_iff (s : State) (l : LineId) (ch : ChannelId) :
    s.pendingFrom l ch = true ↔ ∃ c d, s.channels[ch] = some c ∧ c.deliveries[l] = some d := by
  unfold State.pendingFrom
  cases s.channels[ch] with
  | none => simp only [Bool.false_eq_true, reduceCtorEq, false_and, exists_false]
  | some c => simp only [Option.isSome_iff_exists, Option.some.injEq, exists_and_left, exists_eq_left']

theorem addListener_badLength (body : List Byte) (s : State) (h : body.length ≠ 3) :
    addListener body s = .refuse .badLength := by
  unfold addListener
  split
  · exact absurd rfl h
  · rfl

theorem removeListener_badLength (body : List Byte) (s : State) (h : body.length ≠ 2) :
    removeListener body s = .refuse .badLength := by
  unfold removeListener
  split
  · exact absurd rfl h
  · rfl

section
variable {lb cb ab : Byte} {s : State} {l : LineId} {ch : ChannelId} {a : Action} {c : Channel}

theorem addListener_badField (h : idOf 8 lb = none ∨ idOf 16 cb = none ∨ actionOf ab = none) :
    addListener [lb, cb, ab] s = .refuse .badField := by
  simp only [addListener]
  split
  case h_1 hl hch ha => simp only [hl, hch, ha, reduceCtorEq, or_self] at h
  case h_2 => rfl

theorem addListener_free (hl : idOf 8 lb = some l) (hch : idOf 16 cb = some ch) (ha : actionOf ab = some a)
    (hc : s.channels[ch] = none) : addListener [lb, cb, ab] s = .refuse .badState := by
  simp only [addListener, hl, hch, ha, hc]

/-- R120: the checks on a bound target, in order. -/
theorem addListener_of_bound (hl : idOf 8 lb = some l) (hch : idOf 16 cb = some ch) (ha : actionOf ab = some a)
    (hc : s.channels[ch] = some c) :
    addListener [lb, cb, ab] s =
      if c.role.accepts a = false then .refuse .badRole
      else if c.frozen then .refuse .frozen
      else if s.fabric.listeners[l][ch] ≠ none then .refuse .conflict
      else if Config.listenerEntries ≤ s.fabric.entries.length then .refuse .noSpace
      else .succeed { s with fabric := s.fabric.withListener l ch (some a) }
        [byte1 (s.fabric.withListener l ch (some a)).entries.length] := by
  simp only [addListener, hl, hch, ha, hc]

theorem removeListener_badField (h : idOf 8 lb = none ∨ idOf 16 cb = none) :
    removeListener [lb, cb] s = .refuse .badField := by
  simp only [removeListener]
  split
  case h_1 hl hch => simp only [hl, hch, reduceCtorEq, or_self] at h
  case h_2 => rfl

theorem removeListener_frozen (hl : idOf 8 lb = some l) (hch : idOf 16 cb = some ch) (hf : s.isFrozen ch = true) :
    removeListener [lb, cb] s = .refuse .frozen := by
  simp only [removeListener, hl, hch, if_pos hf]

theorem removeListener_notFound (hl : idOf 8 lb = some l) (hch : idOf 16 cb = some ch) (hf : s.isFrozen ch = false)
    (he : s.fabric.listeners[l][ch] = none) : removeListener [lb, cb] s = .refuse .notFound := by
  simp only [removeListener, hl, hch, hf, he, Bool.false_eq_true, if_false]

/-- R121. -/
theorem removeListener_removes (hl : idOf 8 lb = some l) (hch : idOf 16 cb = some ch) (hf : s.isFrozen ch = false)
    (he : s.fabric.listeners[l][ch] = some a) :
    removeListener [lb, cb] s =
      .succeed { s with fabric := s.fabric.withListener l ch none } [actionByte a, flagByte (s.pendingFrom l ch)] := by
  simp only [removeListener, hl, hch, hf, he, Bool.false_eq_true, if_false]

end

/-! ### The body of START (R41 checks 1 and 2) -/

theorem startFieldsOf_badLength {body : List Byte} {now : Time}
    (h : (body.length ≠ 3 ∧ body.length ≠ 9) ∨ (body.length = 3 ∧ body[1]? = some 1) ∨
      (body.length = 9 ∧ (body[1]? = some 0 ∨ body[1]? = some 2))) : startFieldsOf body now = .error .badLength := by
  unfold startFieldsOf
  split
  case h_1 =>
    rw [if_pos (by simpa using h)]
  case h_2 =>
    rw [if_pos (by simpa using h)]
  case h_3 => rfl

/-- The condition byte of a body of this length, and the fields it carries. -/
inductive StartForm (chb kb rb : Byte) : List Byte → Prop where
  | short (notAt : kb ≠ 1) : StartForm chb kb rb []
  | long (t5 t4 t3 t2 t1 t0 : Byte) (notNext : kb ≠ 0) (notTrigger : kb ≠ 2) : StartForm chb kb rb [t5, t4, t3, t2, t1, t0]

theorem StartForm.of_lengths {chb kb rb : Byte} {time : List Byte}
    (h : kb.toNat = 1 ∧ time.length = 6 ∨ (kb.toNat = 0 ∨ kb.toNat = 2) ∧ time.length = 0 ∨
      3 ≤ kb.toNat ∧ (time.length = 0 ∨ time.length = 6)) : StartForm chb kb rb time := by
  have differs (v : Byte) (hv : kb.toNat ≠ v.toNat) : kb ≠ v := fun e => hv (e ▸ rfl)
  have one : (1 : Byte).toNat = 1 := rfl
  have two : (2 : Byte).toNat = 2 := rfl
  have zero : (0 : Byte).toNat = 0 := rfl
  have lengths : time.length = 0 ∧ kb.toNat ≠ 1 ∨ time.length = 6 ∧ kb.toNat ≠ 0 ∧ kb.toNat ≠ 2 := by omega
  rcases lengths with ⟨hlen, hk⟩ | ⟨hlen, hk0, hk2⟩
  · rw [List.length_eq_zero_iff.mp hlen]
    exact .short (differs 1 hk)
  · match time, hlen with
    | [t5, t4, t3, t2, t1, t0], _ => exact .long t5 t4 t3 t2 t1 t0 (differs 0 hk0) (differs 2 hk2)

section
variable {chb kb rb : Byte} {time : List Byte} {now : Time}

theorem startFieldsOf_badField (form : StartForm chb kb rb time)
    (bad : idOf 16 chb = none ∨ 3 ≤ kb.toNat ∨ flagOf rb = none ∨ (flagOf rb = some true ∧ kb ≠ 2)) :
    startFieldsOf ([chb, kb, rb] ++ time) now = .error .badField := by
  have at_kb : 3 ≤ kb.toNat → kb ≠ 0 ∧ kb ≠ 1 ∧ kb ≠ 2 := fun h =>
    ⟨byte_ne_of_le h 0 (by decide), byte_ne_of_le h 1 (by decide), byte_ne_of_le h 2 (by decide)⟩
  cases form with
  | short notAt =>
    simp only [List.append_nil, startFieldsOf, if_neg notAt]
    cases hch : idOf 16 chb with
    | none => rfl
    | some ch =>
      cases hr : flagOf rb with
      | none => rfl
      | some r => grind
  | long t5 t4 t3 t2 t1 t0 notNext notTrigger =>
    simp only [List.cons_append, List.nil_append, startFieldsOf, notNext, notTrigger, or_self, if_false]
    cases hch : idOf 16 chb with
    | none => rfl
    | some ch =>
      cases hr : flagOf rb with
      | none => rfl
      | some r => grind

/-- Valid fields name the channel. -/
theorem startFieldsOf_of_valid {ch : ChannelId} {r : Bool} (form : StartForm chb kb rb time) (hch : idOf 16 chb = some ch)
    (hr : flagOf rb = some r) (hk : kb.toNat < 3) (rearm : r = true → kb = 2) :
    ∃ f, startFieldsOf ([chb, kb, rb] ++ time) now = .ok f ∧ f.ch = ch := by
  have named : kb = 0 ∨ kb = 1 ∨ kb = 2 := by
    have one : (1 : Byte).toNat = 1 := rfl
    have two : (2 : Byte).toNat = 2 := rfl
    have zero : (0 : Byte).toNat = 0 := rfl
    simp only [← BitVec.toNat_inj]
    omega
  cases form with
  | short notAt =>
    rcases named with rfl | rfl | rfl
    · cases r with
      | false => exact ⟨⟨ch, .next now, false⟩, by simp [startFieldsOf, hch, hr], rfl⟩
      | true => exact absurd (rearm rfl) (by decide)
    · exact absurd rfl notAt
    · exact ⟨⟨ch, .trigger, r⟩, by simp [startFieldsOf, hch, hr], rfl⟩
  | long t5 t4 t3 t2 t1 t0 notNext notTrigger =>
    rcases named with rfl | rfl | rfl
    · exact absurd rfl notNext
    · cases r with
      | false => exact ⟨⟨ch, .at (timeOf t5 t4 t3 t2 t1 t0), false⟩, by simp [startFieldsOf, hch, hr], rfl⟩
      | true => exact absurd (rearm rfl) (by decide)
    · exact absurd rfl notTrigger

end

/-- The body that carries a channel, a condition and rearm reads back as them. -/
theorem startFieldsOf_startBody (ch : ChannelId) {k : StartCondition} {rearm : Bool} {now : Time}
    (valid : rearm = true → k = .trigger) (next : ∀ time, k = .next time → time = now) :
    startFieldsOf (startBody ch k rearm) now = .ok ⟨ch, k, rearm⟩ := by
  have hch : idOf 16 (idByte ch) = some ch := idOf_idByte (by decide) ch
  have hr := flagOf_flagByte rearm
  rcases k with time | time | _
  · cases rearm with
    | false =>
      cases next time rfl
      simp [startBody, conditionByte, startFieldsOf, hch, hr]
    | true => cases valid rfl
  · cases rearm with
    | false =>
      have hk : ¬((1 : Byte) = 0 ∨ (1 : Byte) = 2) := by decide
      simp only [startBody, conditionByte, timeBytes, List.cons_append, List.nil_append, startFieldsOf, if_neg hk, hch, hr,
        and_self, if_true, timeOf_timeBytes]
    | true => cases valid rfl
  · simp [startBody, conditionByte, startFieldsOf, hch, hr]

/-! ### The checks of START on the record, and its effect -/

section
variable {body : List Byte} {f : StartFields} {s : State} {c : Channel} {o : OutputRole} {i : InputRole}

theorem start_of_error {st : Status} (hf : startFieldsOf body s.time = .error st) : start body s = .refuse st := by
  simp only [start, hf]

theorem start_free (hf : startFieldsOf body s.time = .ok f) (hc : s.channels[f.ch] = none) :
    start body s = .refuse .badState := by
  simp only [start, hf, hc]

/-- R41 checks 4 to 7 on an output channel, in order, and the effect. -/
theorem start_of_output (hf : startFieldsOf body s.time = .ok f) (hc : s.channels[f.ch] = some c) (hr : c.role = .output o) :
    start body s =
      if s.holdActive then .refuse .held
      else if c.inPlay then .refuse .badState
      else if o.active = none ∧ o.staged = none then .refuse .notFound
      else if f.condition.late s.time then .refuse .late
      else .succeed (s.startOutput f c o) (timeBytes s.time) := by
  simp only [start, hf, hc, hr]

/-- R41 checks 5 and 7 on an input channel, and the effect. -/
theorem start_of_input (hf : startFieldsOf body s.time = .ok f) (hc : s.channels[f.ch] = some c) (hr : c.role = .input i) :
    start body s =
      if c.inPlay then .refuse .badState
      else if f.condition.late s.time then .refuse .late
      else .succeed (s.setChannel f.ch (some (c.started f (.input i.cleared)))) (timeBytes s.time) := by
  simp only [start, hf, hc, hr]

/-- R42: with nothing staged the active pattern stays. -/
theorem State.startOutput_of_unstaged (h : o.staged = none) :
    s.startOutput f c o = s.setChannel f.ch (some (c.started f (.output { o with
      active := o.active, staged := none, segIndex := 0, ticksLeft := none, reps := 0, doneLevel := none }))) := by
  simp only [State.startOutput, OutputRole.started, h]

/-- R42: a staged pattern is promoted. -/
theorem State.startOutput_of_staged {g : Staged} (h : o.staged = some g) :
    s.startOutput f c o =
      ({ s with store := s.store.releaseField o.active }.setChannel f.ch (some (c.started f (.output { o with
        active := some g.pattern, staged := none, segIndex := 0, ticksLeft := none, reps := 0,
        doneLevel := none })))).report (.swap f.ch o.active g.pattern .start s.time) := by
  simp only [State.startOutput, OutputRole.started, h]

/-- R41 check 7: an at-time is late unless it is ahead of the execution time. -/
theorem StartCondition.late_iff (k : StartCondition) (now : Time) :
    k.late now = true ↔ ∃ time, k = .at time ∧ ¬(1 ≤ (time - now).toNat ∧ (time - now).toNat < 2 ^ 47) := by
  rcases k with time | time | _
  · exact ⟨nofun, fun ⟨_, e, _⟩ => nomatch e⟩
  · simp only [StartCondition.late, ahead, Bool.not_eq_true', decide_eq_false_iff_not, StartCondition.at.injEq, exists_eq_left']
  · exact ⟨nofun, fun ⟨_, e, _⟩ => nomatch e⟩

end

end Sys2Proof.Machine
end

section
/-! SUPPORT. DEFINE_PATTERN bodies that are refused (R6, R7), and the requests of no assigned KIND (R149, R164). -/

namespace Sys2Proof.Machine

/-! ### DEFINE_PATTERN -/

theorem definePattern_of_error {body : List Byte} {s : State} {st : Status} (h : patternOf body = .error st) :
    definePattern body s = .refuse st := by
  simp only [definePattern, h]

theorem patternOf_badLength {body : List Byte}
    (h : body.length < 5 ∨ ∃ m, body[4]? = some m ∧ body.length ≠ 5 + 3 * (m.toNat + 1)) :
    patternOf body = .error .badLength := by
  unfold patternOf
  split
  case h_1 id r1 r0 rest count segs =>
    have wrong : (id :: r1 :: r0 :: rest :: count :: segs).length ≠ 5 + 3 * (count.toNat + 1) := by
      rcases h with short | ⟨m, hm, wrong⟩
      · simp only [List.length_cons] at short
        omega
      · cases hm
        exact wrong
    rw [if_pos wrong]
  case h_2 => rfl

theorem patternOf_badField {id r1 r0 rest count : Byte} {segs : List Byte} (hlen : segs.length = 3 * (count.toNat + 1))
    (h : idOf 32 id = none ∨ Config.maxSegments < count.toNat + 1 ∨ restOf rest = none ∨ segmentsOf segs = none) :
    patternOf (id :: r1 :: r0 :: rest :: count :: segs) = .error .badField := by
  have length : (id :: r1 :: r0 :: rest :: count :: segs).length = 5 + 3 * (count.toNat + 1) := by
    simp only [List.length_cons]
    omega
  simp only [patternOf, length, ne_eq, not_true_eq_false, if_false]
  split
  case isTrue => rfl
  case isFalse many =>
    split
    case h_1 hi hl hs => simp only [hi, hl, hs, many, reduceCtorEq, or_self] at h
    case h_2 => rfl

theorem restOf_eq_none {b : Byte} (h : 4 ≤ b.toNat) : restOf b = none := by
  simp only [restOf, if_neg (byte_ne_of_le h 0 (by decide)), if_neg (byte_ne_of_le h 1 (by decide)),
    if_neg (byte_ne_of_le h 2 (by decide)), if_neg (byte_ne_of_le h 3 (by decide))]

/-- A flag byte with another bit than mark and level set, or of level 3, names no segment (R164). -/
theorem segmentOf_eq_none {d1 d0 b : Byte} (h : b &&& 0x7C ≠ 0 ∨ b &&& 0x03 = 0x03) : segmentOf d1 d0 b = none := by
  have others : (b &&& 0x7F) &&& 0x7C = b &&& 0x7C := by rw [BitVec.and_assoc]; rfl
  have level : (b &&& 0x7F) &&& 0x03 = b &&& 0x03 := by rw [BitVec.and_assoc]; rfl
  rw [← others, ← level] at h
  have differs (v : Byte) (hv : v &&& 0x7C = 0 ∧ v &&& 0x03 ≠ 0x03) : b &&& 0x7F ≠ v := by
    rintro e
    rw [e] at h
    exact h.elim (fun h => h hv.1) hv.2
  simp only [segmentOf, levelOf, if_neg (differs 0 (by decide)), if_neg (differs 1 (by decide)),
    if_neg (differs 2 (by decide))]

/-- One flag byte that names no segment is enough. -/
theorem segmentsOf_eq_none {b : Byte} (bad : ∀ d1 d0, segmentOf d1 d0 b = none) :
    ∀ {segs : List Byte} {j : Nat}, segs[3 * j + 2]? = some b → segmentsOf segs = none
  | [_], _, _ => rfl
  | [_, _], _, _ => rfl
  | d1 :: d0 :: x :: rest, 0, h => by
    obtain rfl : x = b := Option.some.inj h
    simp only [segmentsOf, bad]
  | d1 :: d0 :: x :: rest, j + 1, h => by
    have later : segmentsOf rest = none := segmentsOf_eq_none bad (j := j) h
    simp only [segmentsOf, later]
    cases segmentOf d1 d0 x <;> rfl

/-! ### Requests of no assigned KIND -/

/-- No assigned request code lies in the gaps of R164. -/
theorem assigned_eq_false {kind : Byte}
    (h : kind = 0x00 ∨ 0x08 ≤ kind.toNat ∧ kind.toNat ≤ 0x0F ∨ 0x13 ≤ kind.toNat ∧ kind.toNat ≤ 0x1F ∨ kind = 0x27 ∨
      0x2C ≤ kind.toNat ∧ kind.toNat ≤ 0x2F ∨ 0x35 ≤ kind.toNat ∧ kind.toNat ≤ 0x7F) : assigned kind = false := by
  have outside : ∀ k ∈ assignedKinds, ¬(k = 0x00 ∨ 0x08 ≤ k.toNat ∧ k.toNat ≤ 0x0F ∨ 0x13 ≤ k.toNat ∧ k.toNat ≤ 0x1F ∨
      k = 0x27 ∨ 0x2C ≤ k.toNat ∧ k.toNat ≤ 0x2F ∨ 0x35 ≤ k.toNat ∧ k.toNat ≤ 0x7F) := by decide
  exact Bool.eq_false_of_not_eq_true fun e => outside kind (List.contains_iff_mem.mp e) h

/-- A KIND below 0x80 that is not assigned makes a BAD_KIND a request that every owner refuses. -/
theorem exec_badKind {kind : Byte} (unassigned : assigned kind = false) (small : kind.toNat < 0x80) (tag : Byte)
    (body : List Byte) (s : State) :
    exec (.badKind kind tag body) s = .next (s.request ⟨kind, tag, body⟩ fun _ _ => .refuse .badKind) := by
  have proper : ¬(assigned kind = true ∨ 0x80 ≤ kind.toNat) := by
    rw [unassigned]
    exact fun h => h.elim Bool.false_ne_true (Nat.not_le.mpr small)
  exact congrArg Host.Outcome.next (if_neg proper)

end Sys2Proof.Machine
end

section
/-! SUPPORT. The statements on START, on listener entries, and on requests that are refused for their form. -/

namespace Sys2Proof.Machine

/-- Settles O6: the reader of each body refuses it before the owner looks at the state. -/
theorem malformedDefineAndStartAreRefused : Obligations.MalformedDefineAndStartAreRefused := by
  refine ⟨fun ⟨kind, tag, body⟩ s h => ⟨?_, ?_⟩, ?_, ?_⟩
  · rintro rfl wrong
    exact exec_of_takes (exec_definePattern tag body s) h (definePattern_of_error (patternOf_badLength wrong))
  · rintro rfl wrong
    exact exec_of_takes (exec_start tag body s) h (start_of_error (startFieldsOf_badLength wrong))
  · intro tag id r1 r0 rest count segs s body r h hlen bad
    refine exec_of_takes (exec_definePattern tag body s) h (definePattern_of_error (patternOf_badField hlen ?_))
    rcases bad with big | many | noRest | ⟨j, b, hb, noSegment⟩
    · exact .inl (idOf_eq_none big)
    · exact .inr (.inl (Nat.lt_succ_of_le many))
    · exact .inr (.inr (.inl (restOf_eq_none noRest)))
    · exact .inr (.inr (.inr (segmentsOf_eq_none (fun _ _ => segmentOf_eq_none noSegment) hb)))
  · intro tag chb kb rb time s r t x h lengths
    have answer {a : Answer} (ha : start ([chb, kb, rb] ++ time) t = a) : x = .next (t.conclude r a) :=
      exec_of_takes (exec_start tag ([chb, kb, rb] ++ time) s) h ha
    have form : StartForm chb kb rb time := .of_lengths lengths
    have flag : rb.toNat = 1 → flagOf rb = some true := fun e => by
      rw [show rb = 1 from BitVec.eq_of_toNat_eq e]
      rfl
    rw [← s.taken_channels r]
    refine ⟨fun bad => ?_, fun ch hch hk hr rearm free => ?_⟩
    · refine answer (start_of_error (startFieldsOf_badField form ?_))
      exact bad.imp idOf_eq_none (.imp_right (.imp flagOf_eq_none fun ⟨one, other⟩ => ⟨flag one, fun e => other (e ▸ rfl)⟩))
    · obtain ⟨b, hb, hrearm⟩ : ∃ b, flagOf rb = some b ∧ (b = true → kb = 2) := by
        rcases Nat.lt_succ_iff_lt_or_eq.mp hr with zero | one
        · exact ⟨false, by rw [show rb = 0 from BitVec.eq_of_toNat_eq (Nat.lt_one_iff.mp zero)]; rfl, nofun⟩
        · exact ⟨true, flag one, fun _ => BitVec.eq_of_toNat_eq (rearm one)⟩
      obtain ⟨f, hf, rfl⟩ := startFieldsOf_of_valid (now := t.time) form (idOf_eq_some.mpr hch) hb hk hrearm
      exact answer (start_free hf free)

/-- Settles O22: the body reads back as its fields, and the checks of R41 choose the clause. -/
theorem startOnOutputChannel : Obligations.StartOnOutputChannel := by
  intro tag ch k rearm s c o r t x h valid next hc hr late d
  have htime : t.time = s.time := s.taken_time r
  have hf : startFieldsOf (startBody ch k rearm) t.time = .ok ⟨ch, k, rearm⟩ :=
    startFieldsOf_startBody ch valid fun time hk => (next time hk).trans htime.symm
  have checks := start_of_output hf ((congrArg (·[ch]) (s.taken_channels r)).trans hc) hr
  have answer {a : Answer} (ha : start (startBody ch k rearm) t = a) : x = .next (t.conclude r a) :=
    exec_of_takes (exec_start tag (startBody ch k rearm) s) h ha
  have hlate : k.late t.time = true ↔ late := htime ▸ k.late_iff s.time
  rw [← s.holdActive_taken r]
  refine ⟨fun held => ?_, fun free => ⟨fun play => ?_, fun rest => ⟨fun unassigned unstaged => ?_, fun pattern => ?_⟩⟩⟩
  · rw [if_pos held] at checks
    exact answer checks
  · rw [if_neg (Bool.not_eq_true _ ▸ free), if_pos play] at checks
    exact answer checks
  · rw [if_neg (Bool.not_eq_true _ ▸ free), if_neg (Bool.not_eq_true _ ▸ rest), if_pos ⟨unassigned, unstaged⟩] at checks
    exact answer checks
  have found : ¬(o.active = none ∧ o.staged = none) := fun ⟨unassigned, unstaged⟩ => pattern.elim (· unassigned) (· unstaged)
  rw [if_neg (Bool.not_eq_true _ ▸ free), if_neg (Bool.not_eq_true _ ▸ rest), if_neg found] at checks
  refine ⟨fun tooLate => ?_, fun ahead => ?_⟩
  · rw [if_pos (hlate.mpr tooLate)] at checks
    exact answer checks
  rw [if_neg (mt hlate.mp ahead)] at checks
  rw [← htime]
  refine ⟨fun unstaged => ?_, fun g staged => ⟨_, t.store.releaseField_recounted o.active, ?_⟩⟩
  · rw [State.startOutput_of_unstaged unstaged] at checks
    exact answer checks
  · rw [State.startOutput_of_staged staged] at checks
    exact answer checks

/-- Settles O23: as on an output channel, but that hold and patterns play no part. -/
theorem startOnInputChannel : Obligations.StartOnInputChannel := by
  intro tag ch k rearm s c i r t x h valid next hc hr late d
  have htime : t.time = s.time := s.taken_time r
  have hf : startFieldsOf (startBody ch k rearm) t.time = .ok ⟨ch, k, rearm⟩ :=
    startFieldsOf_startBody ch valid fun time hk => (next time hk).trans htime.symm
  have checks := start_of_input hf ((congrArg (·[ch]) (s.taken_channels r)).trans hc) hr
  have answer {a : Answer} (ha : start (startBody ch k rearm) t = a) : x = .next (t.conclude r a) :=
    exec_of_takes (exec_start tag (startBody ch k rearm) s) h ha
  have hlate : k.late t.time = true ↔ late := htime ▸ k.late_iff s.time
  refine ⟨fun play => ?_, fun rest tooLate => ?_, fun rest ahead => ?_⟩
  · rw [if_pos play] at checks
    exact answer checks
  · rw [if_neg (Bool.not_eq_true _ ▸ rest), if_pos (hlate.mpr tooLate)] at checks
    exact answer checks
  · rw [if_neg (Bool.not_eq_true _ ▸ rest), if_neg (mt hlate.mp ahead)] at checks
    rw [← htime]
    exact answer checks

/-- Settles O26: each check of R120 and R121 in turn; an entry written where there was none is one more. -/
theorem listenerEntriesAreAddedAndRemoved : Obligations.ListenerEntriesAreAddedAndRemoved := by
  refine ⟨fun tag lb cb ab s => ⟨?_, ?_⟩, fun tag lb cb s => ⟨?_, ?_⟩⟩
  · exact s.refusesLength_of_owner (exec_addListener tag · s) addListener_badLength
  · intro r t x h
    have answer {a : Answer} (ha : addListener [lb, cb, ab] t = a) : x = .next (t.conclude r a) :=
      exec_of_takes (exec_addListener tag [lb, cb, ab] s) h ha
    have hfabric : t.fabric = s.fabric := s.taken_fabric r
    rw [← s.taken_channels r, ← hfabric]
    refine ⟨fun bad => ?_, fun l ch a hlb hcb hab => ?_⟩
    · exact answer (addListener_badField (bad.imp idOf_eq_none (.imp idOf_eq_none actionOf_eq_none)))
    have hl := idOf_eq_some.mpr hlb
    have hch := idOf_eq_some.mpr hcb
    have ha : actionOf ab = some a := hab ▸ actionOf_actionByte a
    refine ⟨fun free => answer (addListener_free hl hch ha free), fun c hc => ?_⟩
    have checks := addListener_of_bound hl hch ha hc
    simp only [← Role.accepts_eq_false_iff]
    refine ⟨fun wrong => ?_, fun right frozen => ?_, fun right unfrozen => ⟨fun present => ?_,
      fun absent (full : Config.listenerEntries ≤ t.fabric.entries.length) => ?_,
      fun absent (room : t.fabric.entries.length < Config.listenerEntries) => ?_⟩⟩
    · rw [if_pos wrong] at checks
      exact answer checks
    · rw [if_neg right, if_pos frozen] at checks
      exact answer checks
    · rw [if_neg right, if_neg (Bool.not_eq_true _ ▸ unfrozen), if_pos present] at checks
      exact answer checks
    · rw [if_neg right, if_neg (Bool.not_eq_true _ ▸ unfrozen), if_neg (not_not.mpr absent), if_pos full] at checks
      exact answer checks
    · rw [if_neg right, if_neg (Bool.not_eq_true _ ▸ unfrozen), if_neg (not_not.mpr absent), if_neg (Nat.not_le.mpr room),
        Fabric.entries_length_withListener absent] at checks
      exact answer checks
  · exact s.refusesLength_of_owner (exec_removeListener tag · s) removeListener_badLength
  · intro r t x h
    have answer {a : Answer} (ha : removeListener [lb, cb] t = a) : x = .next (t.conclude r a) :=
      exec_of_takes (exec_removeListener tag [lb, cb] s) h ha
    have hfabric : t.fabric = s.fabric := s.taken_fabric r
    have hfrozen : t.isFrozen = s.isFrozen := s.taken_isFrozen r
    rw [← s.taken_channels r, ← hfabric, ← hfrozen]
    refine ⟨fun bad => answer (removeListener_badField (bad.imp idOf_eq_none idOf_eq_none)), fun l ch hlb hcb => ?_⟩
    have hl := idOf_eq_some.mpr hlb
    have hch := idOf_eq_some.mpr hcb
    refine ⟨fun frozen => answer (removeListener_frozen hl hch frozen), fun unfrozen => ⟨fun absent => ?_, fun a present => ?_⟩⟩
    · exact answer (removeListener_notFound hl hch unfrozen absent)
    intro f b hb
    have held : t.pendingFrom l ch = b := Bool.eq_iff_iff.mpr ((t.pendingFrom_iff l ch).trans hb.symm)
    rw [answer (removeListener_removes hl hch unfrozen present), held]
    rfl

/-- Settles O28: a KIND in a gap of R164 is not assigned, so the request has no owner but the refusal. -/
theorem unassignedKindIsRefused : Obligations.UnassignedKindIsRefused := by
  intro kind tag body s r gap h t f
  have unassigned : assigned kind = false := assigned_eq_false gap
  have small : kind.toNat < 0x80 := by
    rcases gap with rfl | ⟨_, _⟩ | ⟨_, _⟩ | rfl | ⟨_, _⟩ | ⟨_, _⟩
    · decide
    · omega
    · omega
    · decide
    · omega
    · omega
  have frame : replyFrame r [statusByte .badKind] = f := by
    simp only [replyFrame, replyKind, r, unassigned, Bool.false_eq_true, if_false]
    rfl
  rw [exec_of_takes (exec_badKind unassigned small tag body s) h rfl, State.conclude, Link.answer, frame]
  rfl

end Sys2Proof.Machine
end

section
/-! SUPPORT. When the executor takes a request (R147, R149), which owner executes it (R164), and what of the replay table an owner's
effect leaves (R151, R160). -/

namespace Sys2Proof.Machine

/-! ### Arrival of a request that is not the oldest -/

section
variable {k : Link} {r : Request}

/-- The replay table does not answer the request: it has no entry of its tag, or one of another CRC. -/
def Link.NoReplay (k : Link) (r : Request) : Prop :=
  ∀ e, k.replay.find? (fun e => decide (e.tag = r.tag)) = some e → e.crc ≠ r.crc

/-- A request that the replay table does not answer, at an empty queue, joins it, and no entry of its tag is left. -/
theorem Link.arrive_of_empty (empty : k.requests = []) (new : k.NoReplay r) :
    k.arrive r = { k.forget r.tag with requests := [r] } := by
  have screened : k.arrive r = (k.forget r.tag).screen r := by
    rcases k.arrive_cases r with ⟨e, he, ht, hc, _⟩ | h
    · obtain ⟨x, hx⟩ : ∃ x, k.replay.find? (fun e => decide (e.tag = r.tag)) = some x :=
        Option.isSome_iff_exists.mp (List.find?_isSome.mpr ⟨e, he, decide_eq_true ht⟩)
      unfold Link.arrive
      simp only [hx, if_neg (new x hx)]
      rfl
    · exact h
  have requests : (k.forget r.tag).requests = [] := empty
  rw [screened, Link.screen_of_room (by rw [requests]; exact List.not_mem_nil)
    (by rw [requests]; exact Nat.zero_lt_succ _), requests]
  rfl

/-- Otherwise a request that is not the oldest does not become so. -/
theorem Link.arrive_head (other : k.requests.head? ≠ some r) (h : k.requests ≠ [] ∨ ¬k.NoReplay r) :
    (k.arrive r).requests.head? ≠ some r := by
  by_cases new : k.NoReplay r
  · have waiting : k.requests ≠ [] := h.resolve_right (not_not.mpr new)
    rcases k.arrive_cases r with ⟨e, _, _, _, e1⟩ | e1
    · rcases k.pushReply_cases e.reply with ⟨_, e2⟩ | ⟨_, e2⟩ <;> rw [e1, e2] <;> exact other
    · rcases (k.forget r.tag).screen_cases r with ⟨_, e2⟩ | ⟨_, _, e2⟩ | ⟨_, _, e2⟩
      · rw [e1, e2]
        exact other
      · rw [e1, e2]
        show (k.requests ++ [r]).head? ≠ some r
        rwa [List.head?_append_of_ne_nil _ waiting]
      · rcases (k.forget r.tag).pushReply_cases (replyFrame r [statusByte .queueFull]) with ⟨_, e3⟩ | ⟨_, e3⟩ <;>
          rw [e1, e2, e3] <;> exact other
  · obtain ⟨e, he, hc⟩ : ∃ e, k.replay.find? (fun e => decide (e.tag = r.tag)) = some e ∧ e.crc = r.crc := by
      simpa only [Link.NoReplay, not_forall, not_not, exists_prop] using new
    have answered : k.arrive r = k.pushReply e.reply := by
      unfold Link.arrive
      simp only [he, if_pos hc]
    rcases k.pushReply_cases e.reply with ⟨_, e2⟩ | ⟨_, e2⟩ <;> rw [answered, e2] <;> exact other

end

section
variable {s : State} {r : Request}

theorem State.takes_iff_ready : s.takes r = true ↔
    s.inColdReset = false ∧ (s.arrived r).link.requests.head? = some r ∧ (s.arrived r).link.replies.length < 8 := by
  simp only [State.takes, State.ready, Bool.and_eq_true, Bool.not_eq_true']
  exact and_congr_right fun _ => decide_eq_true_iff

theorem State.arrived_of_head (h : s.link.requests.head? = some r) : s.arrived r = s := if_pos h

theorem State.arrived_of_other (h : s.link.requests.head? ≠ some r) :
    s.arrived r = { s with link := s.link.arrive r } := if_neg h

/-- R149: the executor takes the oldest request, and one that arrives at an empty queue past the replay table. -/
theorem State.takes_iff : s.takes r = true ↔
    s.inColdReset = false ∧ s.link.replies.length < 8 ∧
      (s.link.requests.head? = some r ∨ (s.link.requests = [] ∧ s.link.NoReplay r)) := by
  rw [State.takes_iff_ready]
  by_cases head : s.link.requests.head? = some r
  · rw [State.arrived_of_head head]
    exact ⟨fun ⟨out, _, room⟩ => ⟨out, room, .inl head⟩, fun ⟨out, room, _⟩ => ⟨out, head, room⟩⟩
  · rw [State.arrived_of_other head]
    by_cases joins : s.link.requests = [] ∧ s.link.NoReplay r
    · rw [Link.arrive_of_empty joins.1 joins.2]
      exact ⟨fun ⟨out, _, room⟩ => ⟨out, room, .inr joins⟩, fun ⟨out, room, _⟩ => ⟨out, rfl, room⟩⟩
    · refine ⟨fun ⟨_, oldest, _⟩ => ?_, fun ⟨_, _, taken⟩ => absurd taken (not_or.mpr ⟨head, joins⟩)⟩
      exact absurd oldest (Link.arrive_head head (not_and_or.mp joins))

/-- The state in which a taken request is executed. -/
theorem State.taken_eq (h : s.takes r = true) :
    s.taken r = { s with link := { s.link with
      requests := s.link.requests.tail
      replay := if s.link.requests.head? = some r then s.link.replay
                else s.link.replay.filter fun e => decide (e.tag ≠ r.tag) } } := by
  obtain ⟨_, _, head | ⟨empty, new⟩⟩ := State.takes_iff.mp h
  · rw [State.taken, State.arrived_of_head head, if_pos head]
    rfl
  · have other : s.link.requests.head? ≠ some r := by
      rw [empty]
      exact nofun
    rw [State.taken, State.arrived_of_other other, Link.arrive_of_empty empty new, if_neg other, empty]
    rfl

end

/-! ### The owner of a request -/

/-- An owner's effect keeps the replay table. -/
def KeepsReplay (o : List Byte → State → Answer) : Prop :=
  ∀ body s t results, o body s = .succeed t results → t.link.replay = s.link.replay

/-- The owner that executes a request: DEVICE_RESET's, another's, or none, where KIND is not assigned. -/
inductive Request.ServedBy (r : Request) : (List Byte → State → Answer) → Prop where
  | reset (h : r.kind = 0x04) : r.ServedBy deviceReset
  | owner (o : List Byte → State → Answer) (ho : o ∈ owners) (keeps : KeepsReplay o) (h : r.kind ≠ 0x04) : r.ServedBy o
  | unassigned (h : r.kind ≠ 0x04) : r.ServedBy fun _ _ => .refuse .badKind

theorem Link.Reported.replay {k k' : Link} (h : k.Reported k') : k'.replay = k.replay :=
  h.keeps (P := fun j => j.replay = k.replay) (fun _ _ e => (Link.append_replay ..).trans e) rfl

/-- Every owner but DEVICE_RESET's keeps the replay table. -/
theorem keepsReplay_of_mem {o : List Byte → State → Answer} (ho : o ∈ owners.eraseIdx 3) : KeepsReplay o := by
  intro body s t results h
  simp only [owners, List.eraseIdx_cons_succ, List.eraseIdx_cons_zero, List.mem_cons, List.not_mem_nil, or_false] at ho
  rcases ho with rfl | rfl | rfl | rfl | rfl | rfl | rfl | rfl | rfl | rfl | rfl | rfl | rfl | rfl | rfl | rfl | rfl |
    rfl | rfl | rfl | rfl | rfl | rfl | rfl | rfl
  · rw [queryDevice_succeeds h]
  · rw [readTime_succeeds h]
  · obtain ⟨_, _, _, rfl⟩ := grant_succeeds h; rfl
  · obtain ⟨_, _, _, _, _, _, rfl⟩ := setTimebase_succeeds h; rfl
  · rcases holdRequest_succeeds h with ⟨_, rfl⟩ | ⟨_, rfl⟩
    · rfl
    · exact (State.enterHold_link _ _).replay
  · rcases releaseRequest_succeeds h with ⟨_, _, rfl⟩ | ⟨_, rfl⟩
    · exact Link.append_replay _ _
    · rfl
  · obtain ⟨_, _, _, _, _, rfl⟩ := definePattern_succeeds h; rfl
  · obtain ⟨_, _, _, rfl⟩ := deletePattern_succeeds h; rfl
  · rw [queryPattern_succeeds h]
  · obtain ⟨_, _, _, _, _, _, _, rfl⟩ := bind_succeeds h; rfl
  · obtain ⟨_, _, _, _, _, rfl⟩ := unbind_succeeds h; rfl
  · obtain ⟨_, _, _, _, _, _, _, _, rfl⟩ := configureOutput_succeeds h; rfl
  · obtain ⟨_, _, _, _, _, _, _, _, rfl, _⟩ := configureInput_succeeds h; rfl
  · obtain ⟨_, _, _, rfl⟩ := freeze_succeeds h; rfl
  · obtain ⟨_, _, _, ⟨_, rfl⟩ | ⟨_, rfl⟩⟩ := clearChannel_succeeds h <;> rfl
  · rw [queryChannel_succeeds h]
  · obtain ⟨_, _, _, _, _, _, _, _, ⟨_, rfl⟩ | ⟨_, rfl⟩⟩ := assign_succeeds h <;> rfl
  · obtain ⟨_, _, _, _, _, _, _, rfl⟩ := unstage_succeeds h; rfl
  · obtain ⟨f, c, _, _, _, _, ⟨o, _, _, _, rfl⟩ | ⟨_, _, rfl⟩⟩ := start_succeeds h
    · cases hg : o.staged with
      | none => rw [State.startOutput_of_unstaged hg]; rfl
      | some g =>
        rw [State.startOutput_of_staged hg]
        exact Link.append_replay _ _
    · rfl
  · obtain ⟨_, _, _, ⟨_, rfl⟩ | ⟨_, rfl⟩⟩ := stop_succeeds h <;> rfl
  · obtain ⟨_, _, _, _, _, _, _, rfl⟩ := setEmitter_succeeds h; rfl
  · obtain ⟨_, _, _, _, rfl⟩ := clearEmitter_succeeds h; rfl
  · obtain ⟨_, _, _, _, _, _, _, _, _, rfl⟩ := addListener_succeeds h; rfl
  · obtain ⟨_, _, _, _, _, rfl⟩ := removeListener_succeeds h; rfl
  · rw [queryFabric_succeeds h]

theorem Request.ServedBy.of_other {r : Request} {o : List Byte → State → Answer} (ho : o ∈ owners.eraseIdx 3)
    (h : r.kind ≠ 0x04) : r.ServedBy o :=
  .owner o (List.mem_of_mem_eraseIdx ho) (keepsReplay_of_mem ho) h

/-- R164: a request of no assigned KIND is a BAD_KIND. -/
theorem Request.command_of_unassigned {r : Request} (h : assigned r.kind = false) :
    r.command = .badKind r.kind r.tag r.body := by
  have literal : r.kind = BitVec.ofNat 8 r.kind.toNat := by simp
  unfold Request.command
  split
  case h_27 => rfl
  all_goals
    rename_i e
    rw [literal, e] at h
    exact absurd h (by decide)

/-- R164: the command that a request is asks its owner. -/
theorem Request.exec_command (r : Request) (small : r.kind.toNat < 0x80) :
    ∃ o, r.ServedBy o ∧ ∀ s, exec r.command s = .next (s.request r o) := by
  cases ha : assigned r.kind with
  | false =>
    refine ⟨_, .unassigned ?_, fun s => ?_⟩
    · rintro e
      rw [e] at ha
      exact absurd ha (by decide)
    · rw [Request.command_of_unassigned ha]
      exact exec_badKind ha small r.tag r.body s
  | true =>
    obtain ⟨kind, tag, body⟩ := r
    have code : kind ∈ assignedKinds := List.contains_iff_mem.mp ha
    simp only [assignedKinds, List.mem_cons, List.not_mem_nil, or_false] at code
    by_cases reset : kind = 0x04
    · subst reset
      exact ⟨deviceReset, .reset rfl, fun s => rfl⟩
    rcases code with rfl | rfl | rfl | rfl | rfl | rfl | rfl | rfl | rfl | rfl | rfl | rfl | rfl | rfl | rfl | rfl | rfl |
      rfl | rfl | rfl | rfl | rfl | rfl | rfl | rfl | rfl
    case inr.inr.inr.inl => exact absurd rfl reset
    all_goals exact ⟨_, .of_other (by simp [owners]) reset, fun s => rfl⟩

end Sys2Proof.Machine
end

section
/-! SUPPORT. The statements on requests that are taken, and on those that arrive only. -/

namespace Sys2Proof.Machine

/-- Settles O3: the request is the oldest, or becomes so by its arrival at an empty queue; otherwise its command is its arrival. -/
theorem requestIsTakenOrArrives : Obligations.RequestIsTakenOrArrives := by
  refine ⟨fun r s => ⟨State.takes_iff, State.taken_eq⟩, fun r s small waits => ?_⟩
  obtain ⟨o, _, hexec⟩ := r.exec_command small
  rw [hexec]
  rcases s.request_cases r o with ⟨cold, e⟩ | ⟨out, _, e⟩ | ⟨takes, _⟩
  · rw [e, if_pos (.inl cold)]
  · rw [e, State.arrived]
    by_cases head : s.link.requests.head? = some r
    · rw [if_pos head, if_pos (.inr head)]
    · rw [if_neg head, if_neg (not_or.mpr ⟨out ▸ Bool.false_ne_true, head⟩)]
  · exact absurd takes (Bool.not_eq_true _ ▸ waits)

section
variable {s u : State} {r : Request} {o : List Byte → State → Answer} {body : List Byte} {results : List Byte} {st : Status}

theorem Link.Served.replies {k k' : Link} (h : k.Served k') : k'.replies = k.replies := by
  cases h with
  | reported h => exact h.keeps (P := fun j => j.replies = k.replies) (fun _ _ e => (Link.append_replies ..).trans e) rfl
  | credited n _ => rfl
  | warm => rfl

/-- No effect of a request touches the replies that wait. -/
theorem Request.ServedBy.replies (h : r.ServedBy o) (ha : o body s = .succeed u results) :
    u.link.replies = s.link.replies := by
  cases h with
  | reset _ => exact (owner_effect (by simp [owners]) ha).served.replies
  | owner _ ho _ _ => exact (owner_effect ho ha).served.replies
  | unassigned _ => cases ha

/-- DEVICE_RESET alone empties the replay table. -/
theorem Request.ServedBy.replay (h : r.ServedBy o) (ha : o body s = .succeed u results) :
    u.link.replay = if r.kind = 0x04 ∧ Status.ok = .ok then [] else s.link.replay := by
  cases h with
  | reset hk => rw [deviceReset_succeeds ha, if_pos ⟨hk, rfl⟩]; rfl
  | owner _ _ keeps hk => rw [keeps _ _ _ _ ha, if_neg fun h => hk h.1]
  | unassigned _ => cases ha

/-- A refused DEVICE_RESET is refused for its length. -/
theorem Request.ServedBy.refused (h : r.ServedBy o) (ha : o body s = .refuse st) : ¬(r.kind = 0x04 ∧ st = .ok) := by
  rintro ⟨hk, rfl⟩
  cases h with
  | reset _ =>
    unfold deviceReset at ha
    split at ha <;> cases ha
  | owner _ _ _ other => exact other hk
  | unassigned other => exact other hk

end

/-- Settles O5: the owner's answer gives the state, the status and the results, and the executor appends the one reply. -/
theorem everyTakenRequestIsAnswered : Obligations.EveryTakenRequestIsAnswered := by
  intro r s small takes
  obtain ⟨o, served, hexec⟩ := r.exec_command small
  obtain ⟨_, hreplies, _⟩ := State.taken_queues takes
  cases ha : o r.body (s.taken r) with
  | refuse st =>
    refine ⟨s.taken r, st, [], ?_, (if_neg (served.refused ha)).symm, fun _ => ⟨rfl, rfl⟩⟩
    rw [exec_of_takes (hexec s) takes ha, ← hreplies]
    rfl
  | succeed u results =>
    refine ⟨u, .ok, results, ?_, served.replay ha, fun refused => absurd rfl refused⟩
    rw [exec_of_takes (hexec s) takes ha, ← hreplies, ← served.replies ha]
    rfl

end Sys2Proof.Machine
end

section
/-! SUPPORT. The receiver byte by byte and frame by frame (R142 to R145), the transmitter (R153, R155), the resets (R159, R161), and runs of
commands. -/

namespace Sys2Proof.Machine

/-! ### Rows of the link unit -/

section
variable {s : State}

theorem exec_byteArrives (b : Byte) (s : State) : exec (.byteArrives b) s = .next (s.working (s.receiveByte b)) := rfl

/-- A byte command outside cold reset is the receiver's reading of the byte. -/
theorem exec_byteArrives_of_out (h : s.inColdReset = false) (b : Byte) : exec (.byteArrives b) s = .next (s.receiveByte b) := by
  rw [exec_byteArrives, State.working_of_out h]

theorem exec_frameEnd_of_out (h : s.inColdReset = false) {content : List Byte} {hi : Byte}
    (hq : s.link.receiver = .trailer content (some hi)) (lo : Byte) :
    exec (.frameEnd lo) s = .next (s.judge content hi lo) := by
  show Host.Outcome.next (s.working _) = _
  rw [State.working_of_out h, hq]

theorem exec_badLen_of_out (h : s.inColdReset = false) {b : Byte} (hq : s.link.receiver = .length) (hb : badLength b = true) :
    exec (.badLen b) s = .next ((s.receiving .hunting).notice .length) := by
  show Host.Outcome.next (s.working _) = _
  rw [State.working_of_out h, if_pos ⟨hq, hb⟩]

theorem exec_gapTimeout_of_out (h : s.inColdReset = false) : exec .gapTimeout s = .next s.gapExpires :=
  congrArg Host.Outcome.next (State.working_of_out h _)

theorem exec_framingError_of_out (h : s.inColdReset = false) : exec .framingError s = .next s.framingError :=
  congrArg Host.Outcome.next (State.working_of_out h _)

theorem exec_linkReset_of_out (h : s.inColdReset = false) : exec .linkReset s = .next s.linkReset :=
  congrArg Host.Outcome.next (State.working_of_out h _)

theorem exec_transmitterFree_of_out (h : s.inColdReset = false) (gapFirst : Bool) :
    exec (.transmitterFree gapFirst) s = .next { s with link := s.link.transmitNext gapFirst } :=
  congrArg Host.Outcome.next (State.working_of_out h _)

/-! ### A byte in each state of the receiver (R142, R143) -/

variable {b hi : Byte} {len : Nat} {got content : List Byte}

theorem State.receiveByte_of_sync (hq : s.link.receiver = .hunting) : s.receiveByte 0xB4 = s.receiving .length := by
  simp only [State.receiveByte, hq]
  rfl

theorem State.receiveByte_of_noise (hq : s.link.receiver = .hunting) (hb : b ≠ 0xB4) : s.receiveByte b = s := by
  simp only [State.receiveByte, hq]
  exact if_neg hb

theorem State.receiveByte_of_len (hq : s.link.receiver = .length) (lo : 2 ≤ b.toNat) (hi : b.toNat ≤ 250) :
    s.receiveByte b = s.receiving (.content b.toNat []) := by
  have valid : badLength b = false := decide_eq_false (by omega)
  simp only [State.receiveByte, hq, valid, Bool.false_eq_true, if_false]

theorem State.receiveByte_of_badLen (hq : s.link.receiver = .length) (hb : b.toNat < 2 ∨ 250 < b.toNat) :
    s.receiveByte b = (s.receiving .hunting).notice .length := by
  have bad : badLength b = true := decide_eq_true hb
  simp only [State.receiveByte, hq, bad, if_true]

theorem State.receiveByte_of_content (hq : s.link.receiver = .content len got) (more : got.length + 1 < len) :
    s.receiveByte b = s.receiving (.content len (got ++ [b])) := by
  simp only [State.receiveByte, hq, contentByte, if_neg (Nat.not_le.mpr more)]

theorem State.receiveByte_of_contentEnd (hq : s.link.receiver = .content len got) (last : len ≤ got.length + 1) :
    s.receiveByte b = s.receiving (.trailer (got ++ [b]) none) := by
  simp only [State.receiveByte, hq, contentByte, if_pos last]

theorem State.receiveByte_of_crcHigh (hq : s.link.receiver = .trailer content none) :
    s.receiveByte b = s.receiving (.trailer content (some b)) := by
  simp only [State.receiveByte, hq]

theorem State.receiveByte_of_crcLow (hq : s.link.receiver = .trailer content (some hi)) :
    s.receiveByte b = s.judge content hi b := by
  simp only [State.receiveByte, hq]

/-! ### The judgement of a frame (R145) -/

variable {lo kind tag : Byte} {body : List Byte}

theorem State.judge_of_wrong (h : crcOf (byte1 content.length :: content) ≠ hi ++ lo) :
    s.judge content hi lo = (s.receiving .hunting).notice .crc := by
  simp only [State.judge, if_pos h]

theorem State.judge_of_badKind (h : crcOf (coveredBytes kind tag body) = hi ++ lo) (hk : 0x80 ≤ kind.toNat) :
    s.judge (kind :: tag :: body) hi lo = (s.receiving .hunting).notice .kind := by
  have agrees : ¬crcOf (byte1 (kind :: tag :: body).length :: kind :: tag :: body) ≠ hi ++ lo := not_not.mpr h
  simp only [State.judge, if_neg agrees, if_pos hk]

/-- R145, R147: a valid request goes to the arrival checks. -/
theorem State.judge_of_request (h : crcOf (coveredBytes kind tag body) = hi ++ lo) (hk : kind.toNat < 0x80) :
    s.judge (kind :: tag :: body) hi lo =
      { s with link := Link.arrive { s.link with receiver := .hunting, gapTimer := 0 } ⟨kind, tag, body⟩ } := by
  have agrees : ¬crcOf (byte1 (kind :: tag :: body).length :: kind :: tag :: body) ≠ hi ++ lo := not_not.mpr h
  simp only [State.judge, if_neg agrees, if_neg (Nat.not_le.mpr hk)]
  rfl

theorem State.gapExpires_of_frame (h : s.link.receiver ≠ .hunting) :
    s.gapExpires = (s.receiving .hunting).notice .gapTimeout := by
  unfold State.gapExpires
  split
  · exact absurd ‹_› h
  · rfl

theorem State.gapExpires_of_hunting (h : s.link.receiver = .hunting) : s.gapExpires = s := by
  simp only [State.gapExpires, h]

end

/-! ### Rows that happen only outside cold reset -/

section
variable {s : State}

theorem State.working_of_cold (h : s.inColdReset = true) (t : State) : s.working t = s := if_pos h

theorem State.request_of_cold (h : s.inColdReset = true) (r : Request) (o : List Byte → State → Answer) :
    s.request r o = s := if_pos h

theorem State.tickWhen_of_cold (h : s.inColdReset = true) (ch : ChannelId) (y : Sample) (happens : Bool) :
    s.tickWhen ch y happens = s := if_neg fun ⟨out, _⟩ => Bool.false_ne_true (out.symm.trans h)

/-- In cold reset every command but the cold reset's own does nothing. -/
theorem exec_of_cold (h : s.inColdReset = true) {i : Instr} (other : ∀ holdN lrx, i ≠ .coldReset holdN lrx) :
    exec i s = .next s := by
  cases i
  case coldReset holdN lrx => exact absurd rfl (other holdN lrx)
  case badKind kind tag body =>
    refine congrArg Host.Outcome.next ?_
    split
    · rfl
    · exact State.request_of_cold h _ _
  case frameEnd | badLen | gapTimeout | linkReset | transmitterFree | byteArrives | framingError | pinHoldChange =>
    exact congrArg Host.Outcome.next (State.working_of_cold h _)
  case channelTick | pendingDeliveryApplied | enterRunning | segmentEnd | edgeAccepted | timeoutExpiry =>
    exact congrArg Host.Outcome.next (State.tickWhen_of_cold h _ _ _)
  all_goals exact congrArg Host.Outcome.next (State.request_of_cold h _ _)

end

/-! ### Runs of commands -/

/-- A run goes on from the state that a step answers. -/
theorem run_of_step {M : Host.Core} {s t : M.State} (n : Nat) (h : M.step s = .next t) : M.run (n + 1) s = M.run n t := by
  rw [Host.Core.run, h]

/-- A run takes the command at the front of the queue. -/
theorem run_of_exec {c : Instr} {rest : List Instr} {s t : State} (n : Nat)
    (h : exec c { s with pending := rest } = .next t) :
    Sys2Proof.core.run (n + 1) ({ s with pending := c :: rest } : State) = Sys2Proof.core.run n t :=
  run_of_step (M := Sys2Proof.core) n h

/-- The queue plays no part in the judgement of a frame. -/
theorem State.judge_pending (s : State) (rest : List Instr) (content : List Byte) (hi lo : Byte) :
    ({ s with pending := rest } : State).judge content hi lo = { s.judge content hi lo with pending := rest } := by
  unfold State.judge
  dsimp only
  split
  · rfl
  · split
    · split <;> rfl
    · rfl

/-- Nor in what a byte does. -/
theorem State.receiveByte_pending (s : State) (rest : List Instr) (b : Byte) :
    ({ s with pending := rest } : State).receiveByte b = { s.receiveByte b with pending := rest } := by
  unfold State.receiveByte
  dsimp only
  split
  · split <;> rfl
  · split <;> rfl
  · rfl
  · rfl
  · exact s.judge_pending rest _ _ _

theorem exec_byteArrives_pending {s : State} (h : s.inColdReset = false) (b : Byte) (rest : List Instr) :
    exec (.byteArrives b) { s with pending := rest } = .next { s.receiveByte b with pending := rest } :=
  (exec_byteArrives_of_out (s := { s with pending := rest }) h b).trans (congrArg _ (s.receiveByte_pending rest b))

/-- A run over commands that are bytes is the receiver's reading of them one after the other. -/
theorem run_byteArrives (bytes : List Byte) (rest : List Instr) {s : State} (h : s.inColdReset = false) :
    Sys2Proof.core.run bytes.length ({ s with pending := bytes.map Instr.byteArrives ++ rest } : State) =
      .next { bytes.foldl State.receiveByte s with pending := rest } := by
  induction bytes generalizing s with
  | nil => rfl
  | cons b bytes ih =>
    have out : (s.receiveByte b).inColdReset = false := by
      rw [s.receiveByte_linkOnly b]
      exact h
    refine (run_of_exec bytes.length ?_).trans (ih out)
    exact exec_byteArrives_pending h b _

/-! ### The bytes of a request's frame -/

/-- R142: the bytes of the content, up to its last. -/
theorem State.foldl_receiveByte_content (s : State) {len : Nat} {got bytes : List Byte} (some : bytes ≠ [])
    (h : got.length + bytes.length = len) :
    bytes.foldl State.receiveByte (s.receiving (.content len got)) = s.receiving (.trailer (got ++ bytes) none) := by
  induction bytes generalizing got with
  | nil => exact absurd rfl some
  | cons b bytes ih =>
    rw [List.length_cons] at h
    rw [List.foldl_cons]
    by_cases last : bytes = []
    · subst last
      rw [State.receiveByte_of_contentEnd (s := s.receiving _) rfl (by simp only [List.length_nil] at h; omega)]
      rfl
    · have pos : 0 < bytes.length := List.length_pos_iff.mpr last
      rw [State.receiveByte_of_content (s := s.receiving _) rfl (by omega)]
      have goesOn := ih (got := got ++ [b]) last (by rw [List.length_append, List.length_singleton]; omega)
      rw [List.append_assoc, List.singleton_append] at goesOn
      exact goesOn

theorem byte1_toNat {n : Nat} (h : n ≤ 255) : (byte1 n).toNat = n := by
  rw [byte1, BitVec.toNat_ofNat]
  omega

/-- R141: the CRC as it is sent, most significant byte first, is the CRC. -/
theorem bytes2_toNat (c : Half) : ∃ hi lo, bytes2 c.toNat = [hi, lo] ∧ c = hi ++ lo := by
  refine ⟨_, _, rfl, BitVec.eq_of_toNat_eq ?_⟩
  have bound := c.isLt
  rw [BitVec.toNat_append, BitVec.toNat_ofNat, BitVec.toNat_ofNat,
    ← Nat.shiftLeft_add_eq_or_of_lt (Nat.mod_lt _ (by decide)), Nat.shiftLeft_eq]
  omega

/-- R142, R145: the bytes of a request's frame bring it to the arrival checks. -/
theorem State.foldl_receiveByte_frame {s : State} {r : Request} (hq : s.link.receiver = .hunting)
    (hlen : r.body.length ≤ 248) (hk : r.kind.toNat < 0x80) :
    (Frame.bytes { kind := r.kind, tag := r.tag, body := r.body }).foldl State.receiveByte s =
      { s with link := Link.arrive { s.link with receiver := .hunting, gapTimer := 0 } r } := by
  obtain ⟨hi, lo, crc, hcrc⟩ := bytes2_toNat (crcOf (coveredBytes r.kind r.tag r.body))
  have len : (byte1 (r.body.length + 2)).toNat = r.body.length + 2 := byte1_toNat (by omega)
  have content := s.foldl_receiveByte_content (got := []) (bytes := r.kind :: r.tag :: r.body) (List.cons_ne_nil _ _)
    (len := r.body.length + 2) (by simp only [List.length_nil, List.length_cons]; omega)
  have lengthRead : (s.receiving .length).receiveByte (byte1 (r.body.length + 2)) =
      s.receiving (.content (r.body.length + 2) []) := by
    rw [State.receiveByte_of_len (s := s.receiving .length) rfl (by omega) (by omega), len]
    rfl
  have last : (s.receiving (.trailer (r.kind :: r.tag :: r.body) (some hi))).receiveByte lo =
      (s.receiving (.trailer (r.kind :: r.tag :: r.body) (some hi))).judge (r.kind :: r.tag :: r.body) hi lo :=
    State.receiveByte_of_crcLow rfl
  show ([0xB4] ++ ([byte1 (r.body.length + 2)] ++ (r.kind :: r.tag :: r.body)) ++
    bytes2 (crcOf (coveredBytes r.kind r.tag r.body)).toNat).foldl State.receiveByte s = _
  simp only [crc, List.foldl_append, List.foldl_cons (l := []), List.foldl_nil]
  rw [State.receiveByte_of_sync hq, lengthRead, content, List.nil_append, List.foldl_cons, List.foldl_cons, List.foldl_nil,
    State.receiveByte_of_crcHigh (s := s.receiving _) rfl]
  exact last.trans (State.judge_of_request hcrc hk)

/-! ### The transmitter (R153, R155) -/

theorem Link.transmitNext_of_reply {k : Link} {f : Frame} {rest : List Frame} (h : k.replies = f :: rest) (gapFirst : Bool) :
    k.transmitNext gapFirst = { k with replies := rest }.send f := by
  simp only [Link.transmitNext, h]

theorem Link.transmitNext_of_nothing {k : Link} (h : k.replies = []) (calm : k.reports = [] ∨ k.credit = 0) (gapFirst : Bool) :
    k.transmitNext gapFirst = { k with transmission := none } := by
  rcases k.transmitNext_cases gapFirst with ⟨f, rest, e, _⟩ | ⟨_, r, rest, e, credit, _⟩ | ⟨_, _, e⟩
  · rw [h] at e
    cases e
  · rcases calm with empty | spent
    · rw [empty] at e
      cases e
    · exact absurd spent credit
  · exact e

theorem Link.transmitNext_of_report {k : Link} {r : Report} {rest : List Report} (h : k.replies = [])
    (hr : k.reports = r :: rest) (credit : 1 ≤ k.credit) (gapFirst : Bool) :
    k.transmitNext gapFirst =
      ({ k with reports := rest, credit := k.credit - 1 }.send (reportFrame r)).tryGap gapFirst := by
  simp only [Link.transmitNext, h, hr, if_neg (Nat.one_le_iff_ne_zero.mp credit)]

theorem Link.appendGap_of_room {k : Link} (lost : 0 < k.lost) (room : k.reports.length < 64) :
    k.appendGap = { k with reports := k.reports ++ [{ seq := k.nextSeq, body := .gap k.lost }]
                           nextSeq := k.nextSeq + 1, lost := 0 } :=
  if_pos ⟨lost, room⟩

theorem Link.appendGap_of_other {k : Link} (h : k.lost = 0 ∨ 64 ≤ k.reports.length) : k.appendGap = k :=
  if_neg fun ⟨lost, room⟩ => h.elim lost.ne' (Nat.not_le.mpr room)

end Sys2Proof.Machine
end

section
/-! SUPPORT. The statements on the receiver, the transmitter and the resets, and the steps of single commands. -/

namespace Sys2Proof.Machine

/-- Settles O1: that is what a step with a command waiting is. -/
theorem stepRunsFrontCommand : Obligations.StepRunsFrontCommand := fun _ _ _ => rfl

/-- Settles O29: one row of R142's table for each state of the receiver. -/
theorem byteIsTakenInReceiverState : Obligations.ByteIsTakenInReceiverState := by
  intro b s out x enter
  have hx : x = .next (s.receiveByte b) := exec_byteArrives_of_out out b
  rw [hx]
  refine ⟨?_, fun hq noise => ?_, fun hq lo hi => ?_, fun hq bad => ?_, fun len got hq => ⟨fun more => ?_, fun last => ?_⟩,
    fun content hq => ?_, fun content hi hq => ?_⟩
  · rintro hq rfl
    rw [State.receiveByte_of_sync hq]
    rfl
  · rw [State.receiveByte_of_noise hq noise]
  · rw [State.receiveByte_of_len hq lo hi]
    rfl
  · rw [State.receiveByte_of_badLen hq bad]
    rfl
  · rw [State.receiveByte_of_content hq more]
    rfl
  · rw [State.receiveByte_of_contentEnd hq last]
    rfl
  · rw [State.receiveByte_of_crcHigh hq]
    rfl
  · rw [State.receiveByte_of_crcLow hq, exec_frameEnd_of_out out hq]

/-- Settles O30: the three outcomes of R145. -/
theorem frameIsJudged : Obligations.FrameIsJudged := by
  intro lo hi content s out hq x u agrees
  have hx : x = .next (s.judge content hi lo) := exec_frameEnd_of_out out hq lo
  rw [hx]
  refine ⟨fun wrong => ?_, ?_⟩
  · rw [State.judge_of_wrong wrong]
    rfl
  · rintro kind tag body right rfl
    refine ⟨fun big => ?_, fun small => ?_⟩
    · rw [State.judge_of_badKind right big]
      rfl
    · rw [State.judge_of_request right small]

/-- Settles O31: each row outside cold reset, in the state of the receiver where it happens. -/
theorem framesAreAbandoned : Obligations.FramesAreAbandoned := by
  intro b s out u
  refine ⟨fun hq bad => ?_, fun frame => ?_, exec_framingError_of_out out⟩
  · exact exec_badLen_of_out out hq (decide_eq_true bad)
  · rw [exec_gapTimeout_of_out out, State.gapExpires_of_frame frame]
    rfl

/-- Settles O32: outside the state of the receiver that a row names it leaves the state, and so does a row in cold reset. -/
theorem rowsOutOfPlaceDoNothing : Obligations.RowsOutOfPlaceDoNothing := by
  refine ⟨fun b s => ⟨fun noEnd => ?_, fun noLen => ?_, fun hunting => ?_⟩, fun i s cold other => exec_of_cold cold other⟩
  · refine congrArg Host.Outcome.next ?_
    unfold State.working
    split
    · rfl
    · split
      · exact absurd ‹_› (noEnd _ _)
      · rfl
  · have calm : ¬(s.link.receiver = .length ∧ badLength b = true) := by
      rw [badLength, decide_eq_true_eq]
      exact fun ⟨hq, bad⟩ => noLen.elim (· hq) (by omega)
    show Host.Outcome.next (s.working _) = _
    rw [if_neg calm, State.working, ite_self]
  · show Host.Outcome.next (s.working _) = _
    rw [State.gapExpires_of_hunting hunting, State.working, ite_self]

/-- Settles O33: the emptied link unit, and the NOTICE into room or lost. -/
theorem linkResetEmptiesLink : Obligations.LinkResetEmptiesLink := by
  intro s out k
  rw [exec_linkReset_of_out out]
  refine congrArg Host.Outcome.next ?_
  rcases k.append_cases (.notice .linkReset s.time) with ⟨room, e⟩ | ⟨full, e⟩
  · rw [if_pos (show s.link.reports.length < 64 from room)]
    exact congrArg (fun j => { s with link := j }) e
  · rw [if_neg (show ¬s.link.reports.length < 64 from Nat.not_lt.mpr full)]
    exact congrArg (fun j => { s with link := j }) e

/-- Settles O34: R153's choice, R155's GAP with each of its two times, and the settling of a GAP that is due. -/
theorem transmitterTakesNextFrame : Obligations.TransmitterTakesNextFrame := by
  refine ⟨fun gapFirst s out => ?_, fun k => ⟨fun notDue => ?_, fun due lost room => ?_, fun due other => ?_⟩⟩
  · intro x wire
    have hx : x = .next { s with link := s.link.transmitNext gapFirst } := exec_transmitterFree_of_out out gapFirst
    rw [hx]
    refine ⟨fun f rest hf => ?_, fun empty calm => ?_, fun r rest empty hr credit bound => ?_⟩
    · rw [Link.transmitNext_of_reply hf]
      rfl
    · rw [Link.transmitNext_of_nothing empty calm]
    · intro k
      have sent : s.link.transmitNext gapFirst = k.tryGap gapFirst := Link.transmitNext_of_report empty hr credit gapFirst
      have room : k.reports.length < 64 := by
        rw [hr] at bound
        exact bound
      rw [sent, Link.tryGap]
      refine ⟨fun first nothing => ?_, fun first lost => ?_, fun later => ?_⟩
      · rw [if_pos first, Link.appendGap_of_other (k := k) (.inl nothing)]
      · rw [if_pos first, Link.appendGap_of_room (k := k) lost room]
      · rw [later]
        rfl
  · rw [Link.settleGap, notDue]
    rfl
  · rw [Link.settleGap, if_pos due, Link.appendGap_of_room lost room]
  · rw [Link.settleGap, if_pos due, Link.appendGap_of_other other]

/-- Settles O35: the layout of each kind of report, by computation. -/
theorem reportsAreLaidOut : Obligations.ReportsAreLaidOut := by
  intro seq ch time q t frame
  refine ⟨fun n => rfl, fun n d => rfl, fun n => rfl, fun n d => rfl, fun n m => rfl, fun n m d => rfl, fun n => rfl,
    fun n d => rfl, rfl, rfl, rfl, rfl, rfl, fun c b h p => ?_, fun k b h l => ?_, fun c b h => ?_, fun r b h => ?_, fun n => rfl⟩
  · simp only [List.mem_cons, Prod.mk.injEq, List.not_mem_nil, or_false] at h
    rcases h with ⟨rfl, rfl⟩ | ⟨rfl, rfl⟩ | ⟨rfl, rfl⟩ | ⟨rfl, rfl⟩ <;> exact ⟨rfl, fun o => rfl⟩
  · simp only [List.mem_cons, Prod.mk.injEq, List.not_mem_nil, or_false] at h
    rcases h with ⟨rfl, rfl⟩ | ⟨rfl, rfl⟩ | ⟨rfl, rfl⟩ | ⟨rfl, rfl⟩ | ⟨rfl, rfl⟩ | ⟨rfl, rfl⟩ | ⟨rfl, rfl⟩ | ⟨rfl, rfl⟩ <;> rfl
  · simp only [List.mem_cons, Prod.mk.injEq, List.not_mem_nil, or_false] at h
    rcases h with ⟨rfl, rfl⟩ | ⟨rfl, rfl⟩ <;> exact ⟨rfl, rfl⟩
  · simp only [List.mem_cons, Prod.mk.injEq, List.not_mem_nil, or_false] at h
    rcases h with ⟨rfl, rfl⟩ | ⟨rfl, rfl⟩ | ⟨rfl, rfl⟩ | ⟨rfl, rfl⟩ | ⟨rfl, rfl⟩ | ⟨rfl, rfl⟩ <;> rfl

/-- Settles O36: the cold values, for each level of HOLD_N and LRX. -/
theorem coldResetSetsEveryBlock : Obligations.ColdResetSetsEveryBlock := by
  intro holdN lrx s
  have timebases : State.cold.timebases = #v[⟨1, 0, .noTick⟩, ⟨100, 0, .noTick⟩, ⟨1000, 0, .noTick⟩, ⟨10000, 0, .noTick⟩] := rfl
  rw [← timebases]
  cases holdN <;> cases lrx <;> rfl

/-- Settles O52: the run reads the frame's bytes one after the other, and the last of them brings the request. -/
theorem frameBytesBringTheRequest : Obligations.FrameBytesBringTheRequest := by
  intro r rest s out hq hlen hk bytes
  rw [run_byteArrives bytes rest out, State.foldl_receiveByte_frame hq hlen hk]

/-- Settles O60: the reset state differs from the cold values in the link unit alone, which holds one NOTICE. -/
theorem resetIsSound : Obligations.ResetIsSound := by
  have link : State.cold.LinkOnly State.reset := rfl
  have sound {P : State → Prop} (k : KeptByBlocks P) : P State.reset := k.linkOnly (k.cold .deasserted) link
  obtain ⟨accounted, play⟩ := State.storePlaySound_iff.mp (sound State.storePlaySound_kept)
  obtain ⟨fabric, common⟩ := sound State.linkedSound_kept
  obtain ⟨bounded, distinct, consecutive⟩ := (Link.Sound.cold .idle (Nat.zero_le _)).append (.notice .coldStart 0)
  exact ⟨accounted, play, sound State.pinsSound_kept, sound State.timebasesSound_kept, sound State.heldOut_kept, fabric, common,
    sound State.captureSound_kept, bounded, distinct, consecutive⟩

end Sys2Proof.Machine
end

section
/-! SUPPORT. The rows of a tick, when each is the whole tick (R48), and what an event does to a state in which a record was written before
(R114). -/

namespace Sys2Proof.Machine

section
variable {s : State} {ch : ChannelId} {c d : Channel} {o : OutputRole} {i j : InputRole} {y a : Sample}

/-! ### Records written -/

theorem State.setChannel_self (h : s.channels[ch] = some c) : s.setChannel ch (some c) = s := by
  rw [State.setChannel, ← h]
  simp

theorem State.setChannel_setChannel (s : State) (ch : ChannelId) (c d : Option Channel) :
    (s.setChannel ch c).setChannel ch d = s.setChannel ch d := by
  simp only [State.setChannel, Vector.set_set]

theorem State.setChannel_getElem_self (s : State) (ch : ChannelId) (c : Option Channel) : (s.setChannel ch c).channels[ch] = c :=
  getElem_set_self_fin ..

theorem State.raise_link_eq (s : State) (ch : ChannelId) (k : EventKind) :
    (s.raise ch k).link =
      ((lines.filter (s.fabric.tells ch k)).map fun l => ReportBody.line l ch k s.time).foldl Link.append s.link :=
  State.foldl_carry_link ch k lines s

/-- An event reads of a record its deliveries alone, so another record with the same deliveries is written before it as after it. -/
theorem State.raise_setChannel {x : ChannelId} (hc : s.channels[x] = some c) (same : d.deliveries = c.deliveries)
    (ch : ChannelId) (k : EventKind) :
    ∃ e, (s.raise ch k).channels[x] = some { c with deliveries := e } ∧
      (s.setChannel x (some d)).raise ch k = (s.raise ch k).setChannel x (some { d with deliveries := e }) := by
  refine ⟨Vector.ofFn fun l : LineId => s.fabric.holdsAfter ch k s.time x l c.deliveries[l], ?_, ?_⟩
  · rw [State.raise_channels, getElem_ofFn_fin, hc]
    rfl
  · have channels : ((s.setChannel x (some d)).raise ch k).channels = ((s.raise ch k).setChannel x (some { d with
        deliveries := Vector.ofFn fun l : LineId => s.fabric.holdsAfter ch k s.time x l c.deliveries[l] })).channels := by
      rw [State.setChannel_channels (s.raise ch k), State.raise_channels, State.raise_channels]
      ext1 n hn
      rw [Vector.getElem_ofFn, Vector.getElem_set]
      by_cases hx : x.val = n
      · subst hx
        rw [if_pos rfl, ← same]
        simp only [Fin.eta, Fin.getElem_fin, State.setChannel_channels, Vector.getElem_set_self, Option.map_some]
        rfl
      · rw [if_neg hx, Vector.getElem_ofFn]
        have kept : (s.setChannel x (some d)).channels[(⟨n, hn⟩ : ChannelId)] = s.channels[(⟨n, hn⟩ : ChannelId)] := by
          rw [State.setChannel_getElem, if_neg fun e => hx (congrArg Fin.val e)]
        rw [kept]
        rfl
    have link : ((s.setChannel x (some d)).raise ch k).link = (s.raise ch k).link := by
      rw [State.raise_link_eq, State.raise_link_eq]
      rfl
    rw [State.raise_frame (s.setChannel x (some d)), channels, link, State.raise_frame s]
    rfl

/-! ### The rows of a tick -/

theorem exec_channelTick (ch : ChannelId) (y : Sample) (s : State) :
    exec (.channelTick ch y) s = .next (s.tickWhen ch y true) := rfl

theorem exec_pendingDeliveryApplied (ch : ChannelId) (y : Sample) (s : State) :
    exec (.pendingDeliveryApplied ch y) s = .next (s.tickWhen ch y (s.ticksDelivery ch)) := rfl

theorem exec_enterRunning (ch : ChannelId) (y : Sample) (s : State) :
    exec (.enterRunning ch y) s = .next (s.tickWhen ch y (s.ticksEntry ch)) := rfl

theorem exec_edgeAccepted (ch : ChannelId) (y : Sample) (s : State) :
    exec (.edgeAccepted ch y) s = .next (s.tickWhen ch y (s.ticksEdge ch y)) := rfl

theorem exec_timeoutExpiry (ch : ChannelId) (y : Sample) (s : State) :
    exec (.timeoutExpiry ch y) s = .next (s.tickWhen ch y (s.ticksExpiry ch y)) := rfl

theorem State.tickWhen_of_out (h : s.inColdReset = false) : s.tickWhen ch y true = s.tickChannel ch y := if_pos ⟨h, rfl⟩

theorem exec_channelTick_of_out (h : s.inColdReset = false) : exec (.channelTick ch y) s = .next (s.tickChannel ch y) :=
  congrArg Host.Outcome.next (State.tickWhen_of_out h)

/-- A row that happens or not is the whole tick or nothing. -/
theorem State.tickWhen_or (s : State) (ch : ChannelId) (y : Sample) (happens : Bool) :
    s.tickWhen ch y happens = s.tickWhen ch y true ∨ s.tickWhen ch y happens = s := by
  cases happens
  · exact .inr (if_neg fun h => Bool.false_ne_true h.2)
  · exact .inl rfl

/-! ### When nothing happens -/

theorem State.tickChannel_of_free (h : s.channels[ch] = none) (y : Sample) : s.tickChannel ch y = s := by
  have stage : s.deliveryStage ch = ⟨s, false⟩ := by
    have still (ls : List LineId) : ls.foldl (fun w l => Staging.applyLine w ch l) ⟨s, false⟩ = ⟨s, false⟩ := by
      induction ls with
      | nil => rfl
      | cons l ls ih => simpa only [List.foldl_cons, Staging.applyLine, h] using ih
    exact still lines
  simp only [State.tickChannel, stage, State.ownWork, h]

/-- R43, R25. -/
theorem StartCondition.met_iff (k : StartCondition) (now : Time) :
    k.met now = true ↔
      (∃ time, k = .next time ∧ ahead now time = true) ∨ ∃ time, k = .at time ∧ ahead time now = false := by
  cases k <;> simp [StartCondition.met]

theorem State.ticksDelivery_of_nothingDue (hc : s.channels[ch] = some c) (hd : c.NothingDue s.time) :
    s.ticksDelivery ch = false := by
  simp only [State.ticksDelivery, hc, hd.due_eq_none, Option.isSome_none, List.any_eq_false, Bool.false_eq_true,
    not_false_eq_true, implies_true]

/-! ### When the named thing happens -/

theorem State.ticksEntry_of_met (hc : s.channels[ch] = some c) (hd : c.NothingDue s.time) (ha : c.activity = .waiting)
    (met : c.startCondition.met s.time = true) : s.ticksEntry ch = true := by
  simp only [State.ticksEntry, State.deliveryStage_of_nothingDue hc hd, hc, ha, met, decide_true, Bool.and_self]

/-- R93, R94. -/
theorem InputRole.Accepts.outcome {level : Sample} {start now : Time} (h : i.Accepts a y now level start) :
    i.sampleOutcome a y now = .accept level start := by
  cases h with
  | atOnce none differs window => simp only [InputRole.sampleOutcome, none, if_neg differs, if_pos window]
  | qualified q some agrees last => simp only [InputRole.sampleOutcome, some, if_pos agrees, if_pos last]

/-- R95. -/
theorem InputRole.admits_iff (i : InputRole) (level : Sample) : i.edgeSelect.admits level = true ↔ i.Matches level := by
  unfold InputRole.Matches
  cases i.edgeSelect <;> cases level <;> simp [EdgeSelect.admits]

/-- R93 to R95: the outcomes at which no matching edge is accepted. -/
inductive InputRole.Unmatched (i : InputRole) (a y : Sample) (now : Time) : InputRole → Prop where
  | steady (outcome : i.sampleOutcome a y now = .steady) : InputRole.Unmatched i a y now i
  | qualify (q : Option Qualification) (outcome : i.sampleOutcome a y now = .qualify q) :
      InputRole.Unmatched i a y now { i with qual := q }
  | other (level : Sample) (start : Time) (outcome : i.sampleOutcome a y now = .accept level start)
      (other : i.edgeSelect.admits level = false) : InputRole.Unmatched i a y now (i.edged level)

theorem InputRole.Sampled.unmatched {now : Time} (h : i.Sampled a y now j) : i.Unmatched a y now j := by
  cases h with
  | steady none same => exact .steady (by simp only [InputRole.sampleOutcome, none, if_pos same])
  | starts none differs window =>
    exact .qualify _ (by simp only [InputRole.sampleOutcome, none, if_neg differs, if_neg window])
  | goesOn q some agrees more =>
    exact .qualify _ (by simp only [InputRole.sampleOutcome, some, if_pos agrees, if_neg (Nat.not_le.mpr more)])
  | abandoned q some differs => exact .qualify _ (by simp only [InputRole.sampleOutcome, some, if_neg differs])
  | notMatching level start accepts unmatched =>
    exact .other level start accepts.outcome (Bool.eq_false_of_not_eq_true (mt (i.admits_iff level).mp unmatched))

theorem State.ticksEdge_of_accepts {level : Sample} {start : Time} (hc : s.channels[ch] = some c) (hd : c.NothingDue s.time)
    (ha : c.activity = .running) (hr : c.role = .input i) (hl : i.accepted = some a)
    (accepts : i.Accepts a y s.time level start) : s.ticksEdge ch y = true := by
  simp only [State.ticksEdge, State.deliveryStage_of_nothingDue hc hd, State.inputChannel_eq_some.mpr ⟨hc, hr⟩, ha,
    decide_true, InputRole.acceptedEdge, hl, accepts.outcome, Option.isSome_some, Bool.and_self]

theorem State.ticksExpiry_of_unmatched (hc : s.channels[ch] = some c) (hd : c.NothingDue s.time) (ha : c.activity = .running)
    (hr : c.role = .input i) (hl : i.accepted = some a) (hj : i.Unmatched a y s.time j) (last : i.timeoutLeft = some 1) :
    s.ticksExpiry ch y = true := by
  have noMatch : (match i.acceptedEdge y s.time with
      | none => true
      | some (cand, _) => !i.edgeSelect.admits cand) = true := by
    cases hj with
    | steady outcome => simp only [InputRole.acceptedEdge, hl, outcome]
    | qualify q outcome => simp only [InputRole.acceptedEdge, hl, outcome]
    | other level start outcome other => simp only [InputRole.acceptedEdge, hl, outcome, other, Bool.not_false]
  simp only [State.ticksExpiry, State.deliveryStage_of_nothingDue hc hd, State.inputChannel_eq_some.mpr ⟨hc, hr⟩, ha, hl, last,
    decide_true, Option.isSome_some, le_refl, Bool.true_and]
  exact noMatch

end

end Sys2Proof.Machine
end

section
/-! SUPPORT. The end of a repetition and the swap at a segment end, at a state whose channel has a given record (R57 to R59, R79, R80). -/

namespace Sys2Proof.Machine

section
variable {s : State} {ch : ChannelId} {c : Channel} {o : OutputRole} {p : Pattern} {g : Segment}

/-- R57: the repetitions completed are written and CYCLE is raised, in either order. -/
theorem State.cycle_eq (hc : s.channels[ch] = some c) (hr : c.role = .output o) (reps : Nat) :
    ∃ e, (s.raise ch .cycle).channels[ch] = some { c with deliveries := e } ∧
      (s.updateChannel ch fun c => c.updateOutput fun o => { o with reps := reps }).raise ch .cycle =
        (s.raise ch .cycle).setChannel ch (some { c with deliveries := e, role := .output { o with reps := reps } }) := by
  rw [State.updateOutput_eq hc hr]
  exact State.raise_setChannel (c := c) (d := { c with role := .output { o with reps := reps } }) hc rfl ch .cycle

/-- R57: the last segment ends at its repetition, unless a swap at SEGMENT stands. -/
theorem State.afterMark_of_last (hw : o.stagedAt .segment = false) (last : p.segments.length = o.segIndex + 1) :
    s.afterMark ch o p = s.endRepetition ch o p := by
  simp only [State.afterMark, hw, Bool.false_eq_true, if_false, if_pos last.le]

/-- R57: another repetition. -/
theorem State.endRepetition_of_more {e : Vector (Option Delivery) 8} {reps : Nat} (hreps : countUp o.reps = reps)
    (hw : o.stagedAt .cycle = false) (more : p.repeatCount = 0 ∨ reps < p.repeatCount) (hg : p.segments[0]? = some g)
    (cycled : (s.updateChannel ch fun c => c.updateOutput fun o => { o with reps := reps }).raise ch .cycle =
      (s.raise ch .cycle).setChannel ch (some { c with deliveries := e, role := .output { o with reps := reps } })) :
    s.endRepetition ch o p = (s.raise ch .cycle).setChannel ch (some { c with
      deliveries := e, role := .output { o with segIndex := 0, ticksLeft := some g.duration, reps := reps } }) := by
  simp only [State.endRepetition, hreps, hw, Bool.false_eq_true, if_false, if_pos more, cycled]
  rw [State.beginSegment_of_some (State.setChannel_getElem_self ..) rfl hg, State.setChannel_setChannel]

/-- R58: the last repetition. -/
theorem State.endRepetition_of_end {e : Vector (Option Delivery) 8} {reps : Nat} (hreps : countUp o.reps = reps)
    (hw : o.stagedAt .cycle = false) (bounded : p.repeatCount ≠ 0) (done : p.repeatCount ≤ reps)
    (cycled : (s.updateChannel ch fun c => c.updateOutput fun o => { o with reps := reps }).raise ch .cycle =
      (s.raise ch .cycle).setChannel ch (some { c with deliveries := e, role := .output { o with reps := reps } })) :
    s.endRepetition ch o p =
      ((s.raise ch .cycle).setChannel ch (some { c with
        deliveries := e, role := .output { o with reps := reps } })).endPlay ch p := by
  have spent : ¬(p.repeatCount = 0 ∨ reps < p.repeatCount) := by omega
  simp only [State.endRepetition, hreps, hw, Bool.false_eq_true, if_false, if_neg spent, cycled]

/-- R4: LAST is the level of the last segment. -/
theorem Pattern.doneLevel_eq (last : p.segments.length = o.segIndex + 1) (hg : p.segments[o.segIndex]? = some g)
    (otherwise : Level) :
    p.doneLevel otherwise = match p.rest with
      | .low => .low
      | .high => .high
      | .float => .float
      | .last => g.level := by
  have ended : p.segments.getLast? = some g := by
    rw [List.getLast?_eq_getElem?, last, Nat.add_sub_cancel, hg]
  unfold Pattern.doneLevel
  cases p.rest with
  | last => simp only [Pattern.lastLevel, ended]
  | _ => rfl

/-- R79, R80: the swap at a state whose channel has a staged pattern that is defined. -/
theorem State.swap_of_defined {w : Staged} {q : Pattern} (hc : s.channels[ch] = some c) (hr : c.role = .output o)
    (hw : o.staged = some w) (hq : (s.store.rows[w.pattern]).pattern = some q) (hg : q.segments[0]? = some g)
    (cause : SwapCause) :
    s.swap ch cause =
      ((State.setChannel { s with store := s.store.releaseField o.active } ch (some { c with role := .output { o with
        active := some w.pattern, staged := none, segIndex := 0, reps := 0, ticksLeft := some g.duration } })).raise
          ch .swap).report (.swap ch o.active w.pattern cause s.time) := by
  rw [State.swap_of_staged hc hr hw, OutputRole.swapped_eq, hq, OutputRole.beginFirst_of_some hg]

theorem OutputRole.stagedAt_of_staged {w : Staged} (h : o.staged = some w) (at_ : SwapPoint) :
    o.stagedAt at_ = decide (w.point = at_) := by
  simp only [OutputRole.stagedAt, h]

theorem OutputRole.stagedAt_of_unstaged (h : o.staged = none) (at_ : SwapPoint) : o.stagedAt at_ = false := by
  simp only [OutputRole.stagedAt, h]

end

end Sys2Proof.Machine
end

section
/-! SUPPORT. The statements on quiet ticks, the count of a segment, and the entry to RUNNING (R43, R48, R53, R54, R92). -/

namespace Sys2Proof.Machine

section
variable {s : State} {ch : ChannelId} {c : Channel} {o : OutputRole} {y : Sample}

theorem State.tickWhen_of_happens {happens : Bool} (cold : s.inColdReset = false) (h : happens = true) :
    s.tickWhen ch y happens = s.tickChannel ch y := if_pos ⟨cold, h⟩

/-- A tick that changes nothing changes nothing as a row. -/
theorem State.tickWhen_of_still (h : s.tickChannel ch y = s) (happens : Bool) : s.tickWhen ch y happens = s := by
  unfold State.tickWhen
  split
  · exact h
  · rfl

/-- R43, R48: a channel at rest, or in WAITING with its condition unmet, does nothing at a tick with nothing due. -/
theorem State.tickChannel_of_rest (hc : s.channels[ch] = some c) (hd : c.NothingDue s.time) (ha : c.activity ≠ .running)
    (unmet : c.activity = .waiting → c.startCondition.met s.time = false) : s.tickChannel ch y = s := by
  rw [State.tickChannel_of_nothingDue hc hd, State.ownWork_of_rest hc ha unmet]

theorem StartCondition.met_eq_false {k : StartCondition} {now : Time}
    (h : k = .trigger ∨ (∃ time, k = .next time ∧ ahead now time = false) ∨ ∃ time, k = .at time ∧ ahead time now = true) :
    k.met now = false := by
  obtain rfl | ⟨time, rfl, h⟩ | ⟨time, rfl, h⟩ := h
  · rfl
  · exact h
  · rw [StartCondition.met, h]
    rfl

/-- R54: a tick with nothing due and more than one tick of the segment left counts it. -/
theorem State.tickChannel_of_counted {n : Nat} (hc : s.channels[ch] = some c) (hd : c.NothingDue s.time)
    (ha : c.activity = .running) (hr : c.role = .output o) (hl : o.ticksLeft = some n) (more : 1 < n) :
    s.tickChannel ch y = s.setChannel ch (some { c with role := .output { o with ticksLeft := some (n - 1) } }) := by
  rw [State.tickChannel_of_nothingDue hc hd, State.ownWork_of_running_output hc ha hr, State.countSegment_of_more hc hr hl more]

end

/-- Settles O38: a row is the whole tick or nothing, and with nothing due the tick is the channel's own work, which each named thing
finds as its flag. -/
theorem quietAndNamedTicks : Obligations.QuietAndNamedTicks := by
  refine ⟨fun ch y s => ⟨fun free => ?_, fun c hc hd quiet => ?_⟩, fun ch y s i row => ?_,
    fun ch y s c cold hc => ⟨fun ⟨l, d, first⟩ => ?_, fun hd => ⟨?_, fun ha met => ?_, fun ha => ⟨fun o hr last => ?_,
      fun i a hr hl => ⟨fun ⟨level, start, accepts⟩ => ?_, fun ⟨j, sampled⟩ last => ?_⟩⟩⟩⟩⟩
  · exact congrArg Host.Outcome.next (State.tickWhen_of_still (State.tickChannel_of_free free y) true)
  · have running : c.activity ≠ .running := by
      rcases quiet with h | h | h | ⟨h, -⟩ <;> rw [h] <;> decide
    have unmet (waiting : c.activity = .waiting) : c.startCondition.met s.time = false := by
      rcases quiet with h | h | h | ⟨-, h⟩
      · exact absurd (waiting.symm.trans h) (by decide)
      · exact absurd (waiting.symm.trans h) (by decide)
      · exact absurd (waiting.symm.trans h) (by decide)
      · exact StartCondition.met_eq_false h
    exact congrArg Host.Outcome.next (State.tickWhen_of_still (State.tickChannel_of_rest hc hd running unmet) true)
  · have whole (happens : Bool) : (.next (s.tickWhen ch y happens) : Host.Outcome State Fault Refusal) =
        exec (.channelTick ch y) s ∨ (.next (s.tickWhen ch y happens) : Host.Outcome State Fault Refusal) = .next s :=
      (s.tickWhen_or ch y happens).imp (congrArg Host.Outcome.next) (congrArg Host.Outcome.next)
    rcases row with rfl | rfl | rfl | rfl | rfl
    · exact whole _
    · exact whole _
    · exact whole _
    · exact whole _
    · exact whole _
  · rw [exec_pendingDeliveryApplied, State.ticksDelivery_of_due hc first]
    rfl
  · rw [exec_pendingDeliveryApplied, State.ticksDelivery_of_nothingDue hc hd]
    exact congrArg Host.Outcome.next (if_neg fun h => Bool.false_ne_true h.2)
  · rw [exec_enterRunning, State.ticksEntry_of_met hc hd ha ((StartCondition.met_iff _ _).mpr met)]
    rfl
  · rw [exec_segmentEnd, State.ticksSegmentEnd_of_lastTick hc hd ha hr last]
    rfl
  · rw [exec_edgeAccepted, State.ticksEdge_of_accepts hc hd ha hr hl accepts]
    rfl
  · rw [exec_timeoutExpiry, State.ticksExpiry_of_unmatched hc hd ha hr hl sampled.unmatched last]
    rfl

/-- Settles O39, by induction on the ticks: each counts the segment once and leaves a state of the same kind. -/
theorem segmentLastsItsTicks : Obligations.SegmentLastsItsTicks := by
  intro ch ys rest
  induction ys with
  | nil =>
    intro s c o n cold hc hd ha hr hl _
    have same : ({ c with role := .output { o with ticksLeft := some (n - 0) } } : Channel) = c := by
      rw [Nat.sub_zero, ← hl, ← hr]
    have kept : s.channels.set ch (some c) = s.channels := congrArg State.channels (State.setChannel_self hc)
    simp only [List.length_nil, same, kept]
    rfl
  | cons y ys ih =>
    intro s c o n cold hc hd ha hr hl hn
    rw [List.length_cons] at hn
    have tick := (exec_channelTick_of_out (s := { s with pending := ys.map (Instr.channelTick ch) ++ rest }) (y := y) cold).trans
      (congrArg Host.Outcome.next (State.tickChannel_of_counted (y := y) (ch := ch) hc hd ha hr hl (by omega)))
    have further := ih (s.setChannel ch (some { c with role := .output { o with ticksLeft := some (n - 1) } })) _
      { o with ticksLeft := some (n - 1) } (n - 1) cold (State.setChannel_getElem_self ..) hd ha rfl rfl (by omega)
    refine (run_of_exec _ tick).trans (further.trans ?_)
    simp only [State.setChannel_channels, Vector.set_set, Nat.sub_sub, Nat.add_comm 1, List.length_cons]
    rfl

/-- Settles O44: a met condition enters RUNNING in the own work, and an input channel takes its first sample in what BEGIN leaves. -/
theorem conditionMetEntersRunning : Obligations.ConditionMetEntersRunning := by
  intro ch y s c cold hc hd ha condition
  have met : c.startCondition.met s.time = true := (StartCondition.met_iff _ _).mpr condition
  have work : exec (.enterRunning ch y) s =
      .next (if c.isOutput then s.enterRunning ch else (s.enterRunning ch).inputWork ch y) := by
    rw [exec_enterRunning, State.tickWhen_of_happens cold (State.ticksEntry_of_met hc hd ha met),
      State.tickChannel_of_nothingDue hc hd, State.ownWork_of_met hc ha met]
  refine ⟨fun o p q g hr active defined hg => ?_, fun i hr first => ?_⟩
  · have output : c.isOutput = true := by rw [Channel.isOutput, hr]
    rw [work, if_pos output, State.enterRunning_of_output hc hr, State.activePattern_of_defined active defined,
      OutputRole.beginFirst_of_some hg]
    rfl
  · have input : ¬c.isOutput = true := by rw [Channel.isOutput, hr]; exact Bool.false_ne_true
    obtain ⟨e, hv, -, -⟩ := State.raise_if_keeps (s := s.setChannel ch (some { c with activity := .running })) (ch := ch)
      true .begin (State.setChannel_getElem_self ..)
    refine ⟨e, hv, ?_⟩
    rw [work, if_neg input, State.enterRunning_of_input hc hr]
    exact congrArg Host.Outcome.next ((State.inputWork_of_first (i := i) hv hr first y).trans (State.firstSample_eq hv hr y))

end Sys2Proof.Machine
end

section
/-! SUPPORT. The statements on the swap at a segment end and on the end of a repetition (R55, R57 to R59, R79, R80). -/

namespace Sys2Proof.Machine

section
variable {s : State} {ch : ChannelId} {c : Channel} {o : OutputRole} {q : Pattern} {g : Segment}

theorem State.raise_if_time (b : Bool) (k : EventKind) : (if b then s.raise ch k else s).time = s.time := by
  cases b
  · rfl
  · exact State.raise_time ..

/-- R55, R57, R79: a pattern staged for this segment end swaps in, after CYCLE when the last segment ended. -/
theorem State.afterMark_of_staged {w : Staged} {q' : Pattern} {g' : Segment} (hc : s.channels[ch] = some c)
    (hr : c.role = .output o) (hg : q.segments[o.segIndex]? = some g) (hw : o.staged = some w)
    (hq : (s.store.rows[w.pattern]).pattern = some q') (hg' : q'.segments[0]? = some g')
    (point : w.point = .segment ∨ q.segments.length = o.segIndex + 1) :
    let v := if q.segments.length = o.segIndex + 1 then s.raise ch .cycle else s
    ∃ e, v.channels[ch] = some { c with deliveries := e } ∧
      s.afterMark ch o q =
        ((State.setChannel { v with store := s.store.releaseField o.active } ch (some { c with
          deliveries := e
          role := .output { o with active := some w.pattern, staged := none, segIndex := 0, reps := 0,
                                   ticksLeft := some g'.duration } })).raise ch .swap).report
          (.swap ch o.active w.pattern (if w.point = .segment then .segment else .cycle) s.time) := by
  intro v
  have within : o.segIndex < q.segments.length := (List.getElem?_eq_some_iff.mp hg).1
  by_cases atSegment : w.point = .segment
  · have staged : o.stagedAt .segment = true := by rw [OutputRole.stagedAt_of_staged hw, atSegment]; rfl
    by_cases last : q.segments.length = o.segIndex + 1
    · obtain ⟨e, hv, hstore, -⟩ := State.raise_if_keeps (s := s) (ch := ch) true .cycle hc
      rw [if_pos rfl] at hv hstore
      simp only [State.afterMark, staged, if_true, if_pos last.le, if_pos atSegment, v, if_pos last]
      refine ⟨e, hv, ?_⟩
      rw [State.swap_of_defined hv hr hw (by rw [hstore]; exact hq) hg', hstore, State.raise_time]
    · have more : ¬q.segments.length ≤ o.segIndex + 1 := by omega
      simp only [State.afterMark, staged, if_true, if_neg more, if_pos atSegment, v, if_neg last]
      exact ⟨c.deliveries, hc, State.swap_of_defined hc hr hw hq hg' _⟩
  · have last := point.resolve_left atSegment
    have atCycle : w.point = .cycle := by cases e : w.point with
      | segment => exact absurd e atSegment
      | cycle => rfl
    have staged : o.stagedAt .cycle = true := by rw [OutputRole.stagedAt_of_staged hw, atCycle]; rfl
    have unstaged : o.stagedAt .segment = false := by rw [OutputRole.stagedAt_of_staged hw, atCycle]; rfl
    obtain ⟨e, hv, cycled⟩ := State.cycle_eq hc hr (countUp o.reps)
    simp only [v, if_pos last, if_neg atSegment]
    refine ⟨e, hv, ?_⟩
    rw [State.afterMark_of_last unstaged last]
    simp only [State.endRepetition, staged, if_true, cycled]
    have hstore : (s.raise ch .cycle).store = s.store := State.raise_store ..
    have written := State.setChannel_getElem_self (s.raise ch .cycle) ch
      (some { c with deliveries := e, role := .output { o with reps := countUp o.reps } })
    have defined : (((s.raise ch .cycle).setChannel ch
        (some { c with deliveries := e, role := .output { o with reps := countUp o.reps } })).store.rows[w.pattern]).pattern =
        some q' := by rw [State.setChannel_store, hstore]; exact hq
    rw [State.swap_of_defined (o := { o with reps := countUp o.reps }) written rfl hw defined hg']
    simp only [State.setChannel, Vector.set_set, hstore, State.raise_time]

end

/-- Settles O41: MARK leaves the record but for deliveries, and the swap of the segment end is made in what it leaves. -/
theorem stagedPatternSwapsIn : Obligations.StagedPatternSwapsIn := by
  intro ch y s c o p q g w q' g' cold hc hd running hr last active defined hg hw hq hg' point m v
  obtain ⟨e, hm, hstore, -⟩ := State.raise_if_keeps (ch := ch) g.mark .mark hc
  obtain ⟨f, hv, swapped⟩ := State.afterMark_of_staged (s := m) (q := q) hm hr hg hw (by rw [hstore]; exact hq) hg' point
  refine ⟨f, s.store.releaseField (some p), hv, s.store.releaseField_recounted (some p), ?_⟩
  rw [exec_segmentEnd_of_lastTick cold hc hd running hr last,
    State.endSegment_of_segment hc hr (State.activePattern_of_defined active defined) hg, swapped, State.raise_if_time, active, hstore]
  rfl

/-- Settles O42: the repetitions are written and CYCLE is raised, and then the pattern goes on or play ends in what DONE leaves. -/
theorem repetitionEnds : Obligations.RepetitionEnds := by
  intro ch y s c o p q g h cold hc hd running hr last active unstaged defined hg ends hh x reps v z
  obtain ⟨e, hm, -, -⟩ := State.raise_if_keeps (ch := ch) g.mark .mark hc
  obtain ⟨f, hv, cycled⟩ := State.cycle_eq hm hr reps
  have hx : x = .next ((if g.mark then s.raise ch .mark else s).endRepetition ch o q) := by
    rw [← State.afterMark_of_last (OutputRole.stagedAt_of_unstaged unstaged _) ends,
      ← State.endSegment_of_segment hc hr (State.activePattern_of_defined active defined) hg,
      ← exec_segmentEnd_of_lastTick cold hc hd running hr last]
  have atCycle := OutputRole.stagedAt_of_unstaged unstaged .cycle
  refine ⟨fun more => ⟨f, hv, ?_⟩, fun bounded done => ?_⟩
  · rw [hx, State.endRepetition_of_more (reps := reps) rfl atCycle more hh cycled]
    rfl
  obtain ⟨k, hz, raised⟩ := State.raise_setChannel (x := ch)
    (d := { c with deliveries := f, role := .output { o with reps := reps } }) hv rfl ch .done
  have written := (congrArg (fun t : State => t.channels[ch]) raised).trans (State.setChannel_getElem_self z ch _)
  refine ⟨k, hz, fun rearm => ?_, fun rearm => ?_⟩
  · rw [hx, State.endRepetition_of_end (reps := reps) rfl atCycle bounded done cycled,
      State.endPlay_of_finish (o := { o with reps := reps }) written rfl rearm, raised, State.setChannel_setChannel,
      Channel.finish, Pattern.doneLevel_eq ends hg, State.setChannel_time, State.raise_time, State.raise_if_time]
    rfl
  · rw [hx, State.endRepetition_of_end (reps := reps) rfl atCycle bounded done cycled,
      State.endPlay_of_rearm (o := { o with reps := reps }) written rfl rearm, raised, State.setChannel_setChannel]
    rfl

end Sys2Proof.Machine
end

section
/-! SUPPORT. The delivery stage of a tick as the statements on deliveries need it: which lines have nothing due, and how the rest of a tick
goes on after a delivered action (R48, R114, R126). -/

namespace Sys2Proof.Machine

section
variable {s v : State} {ch : ChannelId} {c e : Channel} {l : LineId} {d : Delivery} {y : Sample} {P : LineId → Prop}

/-! ### Lines with nothing due -/

/-- Channel `ch` is bound, and no delivery of the lines in `P` is due at it. -/
def State.NoneDue (s : State) (ch : ChannelId) (P : LineId → Prop) : Prop :=
  ∃ c, s.channels[ch] = some c ∧ ∀ l, P l → c.due l s.time = none

theorem ahead_self (t : Time) : ahead t t = false := by
  rw [ahead, BitVec.sub_self]
  rfl

/-- R21, R125: an event makes no delivery due at its own time. -/
theorem Fabric.holdsAfter_not_due (f : Fabric) (from_ : ChannelId) (k : EventKind) (now : Time) (x : ChannelId) (l : LineId)
    {held : Option Delivery} (h : ∀ d, held = some d → ahead now d.firstTime = false) :
    ∀ d, f.holdsAfter from_ k now x l held = some d → ahead now d.firstTime = false := by
  intro d hd
  unfold Fabric.holdsAfter at hd
  split at hd
  · exact h d hd
  · split at hd
    · rw [← Option.some.inj hd]
      exact ahead_self now
    · cases hd
  next x _ =>
    rw [← Option.some.inj hd]
    split <;> exact h x rfl

theorem State.NoneDue.raise (h : s.NoneDue ch P) (from_ : ChannelId) (k : EventKind) : (s.raise from_ k).NoneDue ch P := by
  obtain ⟨c, hc, none⟩ := h
  have after : (s.raise from_ k).channels[ch] = some { c with
      deliveries := Vector.ofFn fun l : LineId => s.fabric.holdsAfter from_ k s.time ch l c.deliveries[l] } := by
    rw [State.raise_channels, getElem_ofFn_fin, hc]
    rfl
  refine ⟨_, after, fun l hl => Channel.due_eq_none.mpr fun d hd => ?_⟩
  rw [State.raise_time]
  rw [getElem_ofFn_fin] at hd
  exact s.fabric.holdsAfter_not_due from_ k s.time ch l (Channel.due_eq_none.mp (none l hl)) d hd

theorem State.NoneDue.report (h : s.NoneDue ch P) (b : ReportBody) : (s.report b).NoneDue ch P := h

theorem State.NoneDue.setChannel (h : s.NoneDue ch P) (hc : s.channels[ch] = some c) (same : e.deliveries = c.deliveries) :
    (s.setChannel ch (some e)).NoneDue ch P := by
  obtain ⟨b, hb, none⟩ := h
  obtain rfl := Option.some.inj (hb.symm.trans hc)
  refine ⟨e, State.setChannel_getElem_self .., fun l hl => ?_⟩
  have kept : e.due l s.time = b.due l s.time := by simp only [Channel.due, same]
  exact kept.trans (none l hl)

/-- R126: the delivery of line `l` is removed; nothing else was due at the lines in `P`. -/
theorem State.NoneDue.of_gone (gone : e.deliveries = c.deliveries.set l none)
    (others : ∀ (k : LineId) (x : Delivery), k ≠ l → P k → c.deliveries[k] = some x → ahead s.time x.firstTime = false) :
    (s.setChannel ch (some e)).NoneDue ch P := by
  refine ⟨e, State.setChannel_getElem_self .., fun k hk => Channel.due_eq_none.mpr fun x hx => ?_⟩
  rw [gone] at hx
  by_cases same : k = l
  · subst same
    rw [getElem_set_self_fin] at hx
    cases hx
  · rw [getElem_set_fin, if_neg (Ne.symm same)] at hx
    exact others k x same hk hx

theorem State.NoneDue.of_first (first : c.FirstDue s.time l d) (gone : e.deliveries = c.deliveries.set l none) :
    (s.setChannel ch (some e)).NoneDue ch (· ≤ l) :=
  .of_gone gone fun k x other below => first.2.2 k x (lt_of_le_of_ne below other)

theorem State.NoneDue.of_only (only : c.OnlyDue s.time l d) (gone : e.deliveries = c.deliveries.set l none) :
    (s.setChannel ch (some e)).NoneDue ch fun _ => True :=
  .of_gone gone fun k x other _ => only.2.2 k x other

/-- A tick that has passed lines with nothing due is the whole tick. -/
theorem State.NoneDue.tickFrom_above (h : s.NoneDue ch (· ≤ l)) : s.tickFrom ch y (l + 1) false = s.tickChannel ch y := by
  obtain ⟨c, hc, none⟩ := h
  rw [← State.tickFrom_zero]
  exact (State.tickFrom_skip hc (Nat.zero_le _) fun k _ hk => none k (Nat.lt_succ_iff.mp hk)).symm

theorem State.NoneDue.tickFrom_all (h : s.NoneDue ch fun _ => True) (n : Nat) (began : Bool) :
    s.tickFrom ch y n began = s.ownWork ch y began := by
  obtain ⟨c, hc, none⟩ := h
  exact State.tickFrom_of_none hc fun k _ => none k trivial

/-! ### A segment begun in the stage (R48, R54) -/

/-- R48, R54: a segment begun in the delivery stage takes the count from a running output channel, and else changes nothing. -/
theorem State.ownWork_began (hc : s.channels[ch] = some c) :
    s.ownWork ch y true = if c.isOutput = true ∧ c.activity = .running then s else s.ownWork ch y false := by
  simp only [State.ownWork, hc]
  cases c.activity with
  | running => cases c.isOutput <;> rfl
  | _ => simp only [reduceCtorEq, and_false, if_false]

theorem Channel.isOutput_of_wiring (h : c.wiring = e.wiring) : c.isOutput = e.isOutput := by
  have cleared (x : Channel) : x.isOutput = ({ x with role := x.role.cleared } : Channel).isOutput := by
    unfold Channel.isOutput
    cases x.role <;> rfl
  have same : c.role.cleared = e.role.cleared := congrArg (·.2.2.2) h
  rw [cleared c, cleared e, Channel.isOutput, Channel.isOutput, same]

theorem Staging.applyLine_began (s : State) (b b' : Bool) (ch : ChannelId) (l : LineId) :
    (Staging.applyLine ⟨s, b⟩ ch l).state = (Staging.applyLine ⟨s, b'⟩ ch l).state := by
  simp only [Staging.applyLine]
  cases s.channels[ch] with
  | none => rfl
  | some c => dsimp only; cases c.due l s.time <;> rfl

/-- An input channel's tick makes no use of the mark that a segment began. -/
theorem State.tickFrom_of_input (hc : s.channels[ch] = some c) (input : c.isOutput = false) (n : Nat) (b b' : Bool) :
    s.tickFrom ch y n b = s.tickFrom ch y n b' := by
  have step (ls : List LineId) : ∀ w w' : Staging, w.state = w'.state → State.Plays ch s w.state →
      (ls.foldl (fun w l => w.applyLine ch l) w).state = (ls.foldl (fun w l => w.applyLine ch l) w').state ∧
        State.Plays ch s (ls.foldl (fun w l => w.applyLine ch l) w).state := by
    induction ls with
    | nil => exact fun w w' same plays => ⟨same, plays⟩
    | cons l ls ih =>
      rintro ⟨t, b⟩ ⟨_, b'⟩ rfl plays
      exact ih _ _ (Staging.applyLine_began ..) (plays.applyLine l)
  obtain ⟨same, plays⟩ := step (lines.filter fun l => decide (n ≤ l.val)) ⟨s, b⟩ ⟨s, b'⟩ rfl (.refl ch s)
  simp only [State.tickFrom]
  rw [← same]
  have wiring := plays.wiring ch
  generalize (List.foldl (fun w l => Staging.applyLine w ch l) ⟨s, b⟩ _) = w at wiring ⊢
  rw [hc] at wiring
  obtain ⟨x, hx, wired⟩ := Option.map_eq_some_iff.mp wiring
  have still : x.isOutput = false := (Channel.isOutput_of_wiring wired).trans input
  have unmarked (b : Bool) : w.state.ownWork ch y b = w.state.ownWork ch y false := by
    cases b
    · rfl
    · rw [State.ownWork_began hx, if_neg fun h => Bool.false_ne_true (still.symm.trans h.1)]
  rw [unmarked, unmarked (Staging.began _)]

/-! ### A delivered action -/

/-- R48: the tick at which a delivery is due first. -/
theorem exec_pendingDeliveryApplied_of_due {b : Bool} (cold : s.inColdReset = false) (hc : s.channels[ch] = some c)
    (first : c.FirstDue s.time l d) (delivered : (s.setChannel ch (some (c.undeliver l))).deliver ch d = ⟨v, b⟩) :
    exec (.pendingDeliveryApplied ch y) s = .next (v.tickFrom ch y (l + 1) b) := by
  rw [exec_pendingDeliveryApplied, State.tickWhen_of_happens cold (State.ticksDelivery_of_due hc first),
    State.tickChannel_of_due hc first]
  simp only [delivered]

theorem State.tickFrom_of_delivered {n : Nat} {b began : Bool} (hc : s.channels[ch] = some c)
    (first : c.FirstDueFrom n s.time l d) (delivered : (s.setChannel ch (some (c.undeliver l))).deliver ch d = ⟨v, b⟩) :
    s.tickFrom ch y n began = v.tickFrom ch y (l + 1) (began || b) := by
  rw [State.tickFrom_of_due hc first]
  simp only [delivered]

/-- The tick goes on as a whole tick of the state that the delivered action left. -/
theorem exec_pendingDeliveryApplied_goesOn (cold : s.inColdReset = false) (hc : s.channels[ch] = some c)
    (first : c.FirstDue s.time l d) (delivered : (s.setChannel ch (some (c.undeliver l))).deliver ch d = ⟨v, false⟩)
    (passed : v.NoneDue ch (· ≤ l)) (cold' : v.inColdReset = false) :
    exec (.pendingDeliveryApplied ch y) s = exec (.channelTick ch y) v := by
  rw [exec_pendingDeliveryApplied_of_due cold hc first delivered, exec_channelTick_of_out cold', passed.tickFrom_above]

/-- R48, R54: a delivered action that began a segment leaves the lines above to the tick, and no count. -/
theorem exec_pendingDeliveryApplied_begun (cold : s.inColdReset = false) (hc : s.channels[ch] = some c)
    (delivered : (s.setChannel ch (some (c.undeliver l))).deliver ch d = ⟨v, true⟩)
    (hv : v.channels[ch] = some e) (running : e.activity = .running) (output : e.isOutput = true)
    (passed : c.OnlyDue s.time l d → v.NoneDue ch fun _ => True) :
    (c.OnlyDue s.time l d → exec (.pendingDeliveryApplied ch y) s = .next v) ∧
    (c.FirstDue s.time l d → exec (.pendingDeliveryApplied ch y) s = .next (v.tickFrom ch y (l + 1) true)) ∧
    ∀ n began, c.FirstDueFrom n s.time l d → s.tickFrom ch y n began = v.tickFrom ch y (l + 1) true := by
  refine ⟨fun only => ?_, fun first => exec_pendingDeliveryApplied_of_due cold hc first delivered, fun n began first => ?_⟩
  · rw [exec_pendingDeliveryApplied_of_due cold hc only.first delivered, (passed only).tickFrom_all, State.ownWork_began hv,
      if_pos ⟨output, running⟩]
  · rw [State.tickFrom_of_delivered hc first delivered, Bool.or_true]

end

end Sys2Proof.Machine
end

section
/-! SUPPORT. The statements on deliveries: what each delivered action does at a channel with a given record (R46, R47, R67, R82, R105). -/

namespace Sys2Proof.Machine

section
variable {s : State} {ch : ChannelId} {c : Channel} {o : OutputRole} {i : InputRole} {d : Delivery} {q : Pattern} {g : Segment}

/-- A delivered action that finds nothing to do changes nothing (R46, R47, R68, R83, R107, R133). -/
theorem State.deliver_of_idle (hc : s.channels[ch] = some c)
    (idle : (d.action = .start ∧ (¬(c.activity = .waiting ∧ c.startCondition = .trigger) ∨
        (c.isOutput = true ∧ s.holdActive = true))) ∨
      (d.action = .stop ∧ c.inPlay = false) ∨
      (d.action = .restart ∧ (c.isOutput = false ∨ c.activity ≠ .running)) ∨
      (d.action = .swap ∧ (c.isOutput = false ∨ c.activity ≠ .running ∨ ∃ o, c.role = .output o ∧ o.staged = none)) ∨
      (d.action = .stamp ∧ (c.isOutput = true ∨ c.activity ≠ .running))) : s.deliver ch d = ⟨s, false⟩ := by
  rcases idle with ⟨action, idle⟩ | ⟨action, rest⟩ | ⟨action, idle⟩ | ⟨action, idle⟩ | ⟨action, idle⟩
  · simp only [State.deliver, action, State.deliverStart, hc]
    split
    · rfl
    next held => rw [if_neg (idle.resolve_right held)]
  · simp only [State.deliver, action, State.deliverStop, hc, rest, Bool.false_eq_true, if_false]
  · simp only [State.deliver, action, State.deliverRestart]
    split
    · rfl
    next x o hx =>
      obtain ⟨hx, hr⟩ := State.outputChannel_eq_some.mp hx
      obtain rfl := Option.some.inj (hc.symm.trans hx)
      exact if_neg (idle.resolve_left (by rw [Channel.isOutput, hr]; exact Bool.noConfusion))
  · simp only [State.deliver, action, State.deliverSwap]
    split
    · rfl
    next x o hx =>
      obtain ⟨hx, hr⟩ := State.outputChannel_eq_some.mp hx
      obtain rfl := Option.some.inj (hc.symm.trans hx)
      rcases idle with input | rest | ⟨o', hr', unstaged⟩
      · rw [Channel.isOutput, hr] at input
        cases input
      · exact if_neg fun h => rest h.1
      · obtain rfl := Role.output.inj (hr.symm.trans hr')
        exact if_neg fun h => h.2 unstaged
  · simp only [State.deliver, action, State.deliverStamp]
    split
    · rfl
    next x i hx =>
      obtain ⟨hx, hr⟩ := State.inputChannel_eq_some.mp hx
      obtain rfl := Option.some.inj (hc.symm.trans hx)
      exact if_neg (idle.resolve_left (by rw [Channel.isOutput, hr]; exact Bool.false_ne_true))

/-- R47. -/
theorem State.deliver_stop (hc : s.channels[ch] = some c) (action : d.action = .stop) (inPlay : c.inPlay = true) :
    s.deliver ch d = ⟨(s.setChannel ch (some (c.halt .linked))).report (.state ch .haltedLinked s.time), false⟩ := by
  simp only [State.deliver, action, State.deliverStop, hc, inPlay, if_true]

/-- R46. -/
theorem State.deliver_start (hc : s.channels[ch] = some c) (action : d.action = .start)
    (free : ¬(c.isOutput = true ∧ s.holdActive = true)) (waiting : c.activity = .waiting)
    (trigger : c.startCondition = .trigger) : s.deliver ch d = ⟨s.enterRunning ch, true⟩ := by
  simp only [State.deliver, action, State.deliverStart, hc, if_neg free, waiting, trigger, and_self, if_true]

/-- R67. -/
theorem State.deliver_restart (hc : s.channels[ch] = some c) (hr : c.role = .output o) (action : d.action = .restart)
    (running : c.activity = .running) : s.deliver ch d = ⟨s.restart ch, true⟩ := by
  simp only [State.deliver, action, State.deliverRestart, State.outputChannel_eq_some.mpr ⟨hc, hr⟩, running, if_true]

/-- R82. -/
theorem State.deliver_swap (hc : s.channels[ch] = some c) (hr : c.role = .output o) (action : d.action = .swap)
    (running : c.activity = .running) (staged : o.staged ≠ none) : s.deliver ch d = ⟨s.swap ch .action, true⟩ := by
  simp only [State.deliver, action, State.deliverSwap, State.outputChannel_eq_some.mpr ⟨hc, hr⟩,
    if_pos (And.intro running staged)]

/-- R105. -/
theorem State.deliver_stamp (hc : s.channels[ch] = some c) (hr : c.role = .input i) (action : d.action = .stamp)
    (running : c.activity = .running) : s.deliver ch d = ⟨s.stamp ch d, false⟩ := by
  simp only [State.deliver, action, State.deliverStamp, State.inputChannel_eq_some.mpr ⟨hc, hr⟩, running, if_true]

theorem State.raise_keepsRecord {x : ChannelId} (h : s.channels[x] = some c) (ch : ChannelId) (k : EventKind) :
    ∃ ds, (s.raise ch k).channels[x] = some { c with deliveries := ds } :=
  let ⟨ds, after, _⟩ := State.raise_setChannel h rfl ch k
  ⟨ds, after⟩

theorem State.report_getElem (s : State) (b : ReportBody) (x : ChannelId) : (s.report b).channels[x] = s.channels[x] := rfl

theorem State.setChannel_store_setChannel (s : State) (ch : ChannelId) (a b : Option Channel) (u : PatternStore) :
    State.setChannel { s.setChannel ch a with store := u } ch b = State.setChannel { s with store := u } ch b := by
  simp only [State.setChannel, Vector.set_set]

/-- R96, R98: the interval a capture carries. -/
theorem InputRole.interval_eq (i : InputRole) (time : Time) :
    i.interval time = if i.mode = .interval then i.lastCapture.map fun last => time - last else none := by
  unfold InputRole.interval
  cases i.mode <;> cases i.lastCapture <;> rfl

end

/-- Settles O45: the delivery is gone, its action does nothing, and the lines below have nothing due. -/
theorem idleDeliveriesAreRemoved : Obligations.IdleDeliveriesAreRemoved := by
  refine ⟨?_, fun ch y s cold => ⟨exec_channelTick_of_out cold, fun c n hc hd => ?_⟩⟩
  · intro ch y s c l d cold hc idle e t
    have ht : t.channels[ch] = some e := State.setChannel_getElem_self s ch (some e)
    have delivered : t.deliver ch d = ⟨t, false⟩ := State.deliver_of_idle ht idle
    refine ⟨fun first => ?_, fun n began first => ?_⟩
    · exact exec_pendingDeliveryApplied_goesOn cold hc first delivered (.of_first first rfl) cold
    · rw [State.tickFrom_of_delivered hc first delivered, Bool.or_false]
  · have none : s.NoneDue ch fun _ => True := ⟨c, hc, fun l _ => hd.due_eq_none l⟩
    rw [none.tickFrom_all, none.tickFrom_all, exec_channelTick_of_out cold, State.tickChannel_of_nothingDue hc hd]
    exact ⟨rfl, State.ownWork_began hc⟩

/-- Settles O46: a STOP halts the record without its delivery; a START enters RUNNING, and on an output channel begins a segment. -/
theorem deliveredStopAndStart : Obligations.DeliveredStopAndStart := by
  refine ⟨?_, fun ch y s c i cold hc hd running hr first => ?_⟩
  · intro ch y s c l d cold hc x gone
    have ht := State.setChannel_getElem_self s ch (some (c.undeliver l))
    have stopped (action : d.action = .stop) (inPlay : c.inPlay = true) :
        (s.setChannel ch (some (c.undeliver l))).deliver ch d =
          ⟨(s.setChannel ch (some ((c.undeliver l).halt .linked))).report (.state ch .haltedLinked s.time), false⟩ := by
      rw [State.deliver_stop ht action inPlay, State.setChannel_setChannel]
      rfl
    refine ⟨fun action first inPlay => ?_, fun n began action first inPlay => ?_, fun i action first hr waiting trigger => ?_,
      fun o p q g action hr waiting trigger free active defined hg => ?_⟩
    · exact exec_pendingDeliveryApplied_goesOn cold hc first (stopped action inPlay)
        (.of_first (e := (c.undeliver l).halt .linked) first rfl) cold
    · rw [State.tickFrom_of_delivered hc first (stopped action inPlay), Bool.or_false]
      rfl
    · have input : c.isOutput = false := by rw [Channel.isOutput, hr]
      have unheld : ¬((c.undeliver l).isOutput = true ∧ (s.setChannel ch (some (c.undeliver l))).holdActive = true) :=
        fun h => Bool.false_ne_true (input.symm.trans h.1)
      have started := State.deliver_start ht action unheld waiting trigger
      rw [State.enterRunning_of_input ht hr, State.setChannel_setChannel] at started
      intro e
      have passed : ((s.setChannel ch (some e)).raise ch .begin).NoneDue ch (· ≤ l) :=
        (State.NoneDue.of_first first rfl).raise ch .begin
      obtain ⟨f, hv⟩ := State.raise_keepsRecord (State.setChannel_getElem_self s ch (some e)) ch .begin
      have cold' : ((s.setChannel ch (some e)).raise ch .begin).inColdReset = false := (State.raise_inColdReset ..).trans cold
      have whole := (State.tickFrom_of_input (y := y) hv input (l + 1) true false).trans passed.tickFrom_above
      exact (exec_pendingDeliveryApplied_of_due cold hc first started).trans ((congrArg Host.Outcome.next whole).trans
        (exec_channelTick_of_out cold').symm)
    · have unheld : ¬((c.undeliver l).isOutput = true ∧ (s.setChannel ch (some (c.undeliver l))).holdActive = true) :=
        fun h => Bool.false_ne_true (free.symm.trans h.2)
      have started := State.deliver_start ht action unheld waiting trigger
      have playing : (s.setChannel ch (some (c.undeliver l))).activePattern o = some q :=
        State.activePattern_of_defined active defined
      rw [State.enterRunning_of_output ht hr, State.setChannel_setChannel, playing, OutputRole.beginFirst_of_some hg] at started
      intro e
      obtain ⟨f, hv⟩ := State.raise_keepsRecord (State.setChannel_getElem_self s ch (some e)) ch .begin
      exact exec_pendingDeliveryApplied_begun cold hc started hv rfl rfl fun only =>
        (State.NoneDue.of_only only rfl).raise ch .begin
  · rw [exec_channelTick_of_out cold, State.tickChannel_of_nothingDue hc hd, State.ownWork_of_running_input hc running hr,
      State.inputWork_of_first hc hr first, State.firstSample_eq hc hr]
    rfl

/-- Settles O47: both actions begin a segment in the delivery stage, in the record without the delivery. -/
theorem deliveredRestartAndSwap : Obligations.DeliveredRestartAndSwap := by
  intro ch y s c o l d p cold hc hr running active x gone applied
  have ht := State.setChannel_getElem_self s ch (some (c.undeliver l))
  refine ⟨fun q g action _ defined hg => ?_, fun w q g action _ hw defined hg => ?_⟩
  · intro e
    have restarted := State.deliver_restart ht hr action running
    have playing : (s.setChannel ch (some (c.undeliver l))).activePattern o = some q :=
      State.activePattern_of_defined active defined
    rw [State.restart_of_active ht hr playing, State.beginSegment_of_some ht hr hg, State.setChannel_setChannel] at restarted
    exact exec_pendingDeliveryApplied_begun cold hc restarted (State.setChannel_getElem_self ..) running rfl fun only =>
      .of_only only rfl
  · refine ⟨_, s.store.releaseField_recounted (some p), ?_⟩
    intro e
    have swapped := State.deliver_swap ht hr action running (by rw [hw]; exact Option.some_ne_none w)
    rw [State.swap_of_defined ht hr hw defined hg, active] at swapped
    rw [State.setChannel_store_setChannel, State.setChannel_store, State.setChannel_time] at swapped
    obtain ⟨f, hv⟩ := State.raise_keepsRecord
      (State.setChannel_getElem_self { s with store := s.store.releaseField (some p) } ch (some e)) ch .swap
    refine exec_pendingDeliveryApplied_begun cold hc swapped ((State.report_getElem ..).trans hv) running rfl fun only => ?_
    have none : (State.setChannel { s with store := s.store.releaseField (some p) } ch (some e)).NoneDue ch fun _ => True :=
      .of_only (s := { s with store := s.store.releaseField (some p) }) only rfl
    exact (none.raise ch .swap).report _

/-- Settles O48: the capture is reported in the record without the delivery, and the limit test ends play in what LIMIT leaves. -/
theorem deliveredStampCaptures : Obligations.DeliveredStampCaptures := by
  intro ch y s c i l d cold hc first action hr running x n interval j e v z
  have ht := State.setChannel_getElem_self s ch (some (c.undeliver l))
  have captured : (s.setChannel ch (some (c.undeliver l))).capture ch (.linked d.count) d.firstTime = v := by
    rw [State.capture_eq ht hr, State.setChannel_setChannel, InputRole.interval_eq]
    rfl
  have stamped : (s.setChannel ch (some (c.undeliver l))).deliver ch d = ⟨v.testLimit ch, false⟩ := by
    rw [State.deliver_stamp ht hr action running, State.stamp, captured]
  have hv : v.channels[ch] = some e := State.setChannel_getElem_self s ch (some e)
  have passed : v.NoneDue ch (· ≤ l) := (State.NoneDue.of_first (e := e) first rfl).report _
  refine ⟨fun below => ?_, fun limited reached => ?_⟩
  · rw [State.testLimit_of_below (i := j) hv rfl below] at stamped
    exact exec_pendingDeliveryApplied_goesOn cold hc first stamped passed cold
  obtain ⟨f, hz⟩ := State.raise_keepsRecord hv ch .limit
  have cold' : z.inColdReset = false := (State.raise_inColdReset ..).trans cold
  have ended (k : Channel) (same : k.deliveries = f) : (z.setChannel ch (some k)).NoneDue ch (· ≤ l) :=
    (passed.raise ch .limit).setChannel hz same
  refine ⟨f, hz, fun rearm => ?_, fun rearm => ?_⟩
  · rw [State.testLimit_of_reached (d := { e with deliveries := f }) (i := j) (j := j) hv rfl ⟨limited, reached⟩ hz rfl
      rearm] at stamped
    refine exec_pendingDeliveryApplied_goesOn cold hc first stamped (State.NoneDue.report ?_ _) ?_
    · exact ended _ rfl
    · rw [State.report_inColdReset]
      simp only [cold']
  · rw [State.testLimit_of_rearm (d := { e with deliveries := f }) (i := j) (j := j) hv rfl ⟨limited, reached⟩ hz rfl
      rearm] at stamped
    exact exec_pendingDeliveryApplied_goesOn cold hc first stamped (ended _ rfl) (by simp only [cold'])

end Sys2Proof.Machine
end

section
/-! SUPPORT. The statements on ticks of a running input channel (R93 to R102). -/

namespace Sys2Proof.Machine

section
variable {s : State} {ch : ChannelId} {c : Channel} {i j : InputRole} {y a : Sample}

theorem State.tickChannel_of_input (hc : s.channels[ch] = some c) (hd : c.NothingDue s.time) (ha : c.activity = .running)
    (hr : c.role = .input i) : s.tickChannel ch y = s.inputWork ch y := by
  rw [State.tickChannel_of_nothingDue hc hd, State.ownWork_of_running_input hc ha hr]

theorem InputRole.Unmatched.timeoutLeft {now : Time} (h : i.Unmatched a y now j) : j.timeoutLeft = i.timeoutLeft := by
  cases h <;> rfl

/-- R93 to R95, R100: where no matching edge is accepted, the sample's effect on the record is written and the window counted. -/
theorem State.inputWork_of_unmatched (hc : s.channels[ch] = some c) (hr : c.role = .input i) (hl : i.accepted = some a)
    (h : i.Unmatched a y s.time j) :
    s.inputWork ch y = (s.setChannel ch (some { c with role := .input j })).countWindow ch := by
  cases h with
  | steady outcome =>
    have same : ({ c with role := .input i } : Channel) = c := by rw [← hr]
    rw [State.inputWork_of_steady hc hr hl outcome, same, State.setChannel_self hc]
  | qualify q outcome => exact State.inputWork_of_qualify hc hr hl outcome
  | other level start outcome other =>
    rw [State.inputWork_of_accept hc hr hl outcome, other, if_neg Bool.false_ne_true, State.acceptEdge_of_other hc hr start other]

/-- R100: the window is counted where it does not expire. -/
theorem State.countWindow_of_open (hc : s.channels[ch] = some c) (hr : c.role = .input i)
    (more : ∀ n, i.timeoutLeft = some n → 1 < n) :
    s.countWindow ch = s.setChannel ch (some { c with role := .input { i with
      timeoutLeft := i.timeoutLeft.map fun n => n - 1 } }) := by
  cases e : i.timeoutLeft with
  | none =>
    have same : ({ c with role := .input { i with timeoutLeft := (none : Option Nat).map fun n => n - 1 } } : Channel) = c := by
      rw [Option.map_none, ← e, ← hr]
    rw [State.countWindow_of_none hc hr e, same, State.setChannel_self hc]
  | some n => exact State.countWindow_of_more hc hr e (more n e)

end

/-- Settles O49: the tick writes what the sample leaves of the record, and counts the window there. -/
theorem qualificationCounts : Obligations.QualificationCounts := by
  intro ch y a s c i j cold hc hd ha hr hl sampled more
  have kept := sampled.unmatched.timeoutLeft
  intro d
  rw [exec_channelTick_of_out cold, State.tickChannel_of_input hc hd ha hr,
    State.inputWork_of_unmatched hc hr hl sampled.unmatched,
    State.countWindow_of_open (i := j) (State.setChannel_getElem_self ..) rfl (kept ▸ more), State.setChannel_setChannel, kept]
  rfl

/-- What the sample leaves keeps the fields that an expiry tells and goes by. -/
theorem InputRole.Unmatched.configuration {i j : InputRole} {a y : Sample} {now : Time} (h : i.Unmatched a y now j) :
    j.captures = i.captures ∧ j.mode = i.mode ∧ j.lastCapture = i.lastCapture ∧ j.timeoutAction = i.timeoutAction ∧
      j.timeoutWindow = i.timeoutWindow := by
  cases h <;> exact ⟨rfl, rfl, rfl, rfl, rfl⟩

/-- Settles O51: the window's last tick is counted in what the sample leaves, and the timeout action follows report and event. -/
theorem timeoutWindowExpires : Obligations.TimeoutWindowExpires := by
  intro ch y a s c i j cold hc hd ha hr hl sampled last window x interval v
  obtain ⟨captures, mode, lastCapture, action, size⟩ := sampled.unmatched.configuration
  have ht := State.setChannel_getElem_self s ch (some { c with role := .input j })
  have timedOut : (s.setChannel ch (some { c with role := .input j })).timedOut ch j = v := by
    rw [State.timedOut, InputRole.interval_eq, captures, mode, lastCapture]
    rfl
  have hx : x = .next ((s.setChannel ch (some { c with role := .input j })).expire ch) := by
    rw [← State.countWindow_of_last ht rfl (sampled.unmatched.timeoutLeft.trans last) le_rfl,
      ← State.inputWork_of_unmatched hc hr hl sampled.unmatched, ← State.tickChannel_of_input hc hd ha hr,
      ← State.tickWhen_of_happens cold (State.ticksExpiry_of_unmatched hc hd ha hr hl sampled.unmatched last)]
    rfl
  obtain ⟨e, hv⟩ : ∃ e, v.channels[ch] = some { c with deliveries := e, role := .input j } :=
    State.raise_keepsRecord (s := (s.setChannel ch (some { c with role := .input j })).report
      (.capture ch .timeout i.captures s.time interval)) ht ch .timeout
  refine ⟨e, hv, fun report => ?_, fun halt => ?_⟩
  · rw [hx, State.expire_of_report ht rfl (action.trans report), timedOut, State.startWindow_eq (i := j) hv rfl,
      InputRole.windowStart, size, if_neg window]
    rfl
  · rw [hx, State.expire_of_halt ht rfl (action.trans halt) (by rw [timedOut]; exact hv), timedOut]
    rfl

/-- Settles O50: the capture, its report and EDGE come in the record with the edge, and the window and the limit test in what EDGE
leaves. -/
theorem matchingEdgeIsCaptured : Obligations.MatchingEdgeIsCaptured := by
  intro ch y a level start s c i cold hc hd ha hr hl accepts matching x n interval j v z
  have admits := (i.admits_iff level).mpr matching
  have ht := State.setChannel_getElem_self s ch (some { c with role := .input (i.edged level) })
  have kind : edgeKind level = if level = Sample.high then CaptureKind.rise else CaptureKind.fall := by cases level <;> rfl
  have captured : ((s.setChannel ch (some { c with role := .input (i.edged level) })).capture ch (edgeKind level) start).raise ch
      .edge = v := by
    rw [State.capture_eq ht rfl, State.setChannel_setChannel, InputRole.interval_eq, kind]
    rfl
  have hx : x = .next ((v.startWindow ch).testLimit ch) := by
    rw [← captured, ← State.acceptEdge_of_match hc hr start admits]
    have work := State.inputWork_of_accept hc hr hl accepts.outcome
    rw [if_pos admits] at work
    rw [← work, ← State.tickChannel_of_input hc hd ha hr,
      ← State.tickWhen_of_happens cold (State.ticksEdge_of_accepts hc hd ha hr hl accepts)]
    rfl
  have hw := State.setChannel_getElem_self s ch (some { c with role := .input j })
  obtain ⟨e, hv⟩ : ∃ e, v.channels[ch] = some { c with deliveries := e, role := .input j } :=
    State.raise_keepsRecord (s := (s.setChannel ch (some { c with role := .input j })).report
      (.capture ch (if level = Sample.high then CaptureKind.rise else CaptureKind.fall) n start interval)) hw ch .edge
  let b : Channel := { c with deliveries := e, role := .input { j with timeoutLeft := j.windowStart } }
  have hb : (v.setChannel ch (some b)).channels[ch] = some b := State.setChannel_getElem_self v ch (some b)
  rw [State.startWindow_eq (s := v) (i := j) hv rfl] at hx
  refine ⟨fun below => ⟨e, hv, ?_⟩, fun limited reached => ?_⟩
  · exact hx.trans (congrArg Host.Outcome.next (State.testLimit_of_below (c := b) hb rfl below))
  obtain ⟨f, hz, raised⟩ := State.raise_setChannel (d := b) hv rfl ch .limit
  have hu : ((v.setChannel ch (some b)).raise ch .limit).channels[ch] = some { b with deliveries := f } := by
    rw [raised]
    exact State.setChannel_getElem_self ..
  refine ⟨f, hz, fun rearm => ?_, fun rearm => ?_⟩
  · have ended := State.testLimit_of_reached (c := b) (d := { b with deliveries := f }) hb rfl ⟨limited, reached⟩ hu rfl rearm
    rw [raised, State.setChannel_setChannel] at ended
    have time : v.time = s.time := State.raise_time ..
    rw [hx, ended, State.setChannel_time, time]
    rfl
  · have ended := State.testLimit_of_rearm (c := b) (d := { b with deliveries := f }) hb rfl ⟨limited, reached⟩ hu rfl rearm
    rw [raised, State.setChannel_setChannel] at ended
    exact hx.trans (congrArg Host.Outcome.next ended)

end Sys2Proof.Machine
end

section
/-! SUPPORT. The orders of a base tick: every order of the units is some picks' order, and every merge of the reports some picks' merge
(notes/assumptions/13.md, 23.md). -/

namespace Sys2Proof.Machine

section
variable {α : Type}

/-! ### Arrangements -/

theorem arrange_perm (order : List Nat) (xs : List α) : (arrange order xs).Perm xs := by
  induction order generalizing xs with
  | nil => exact .refl xs
  | cons k ks ih =>
    rw [arrange]
    split
    · exact .refl xs
    next x hx =>
      obtain ⟨inside, rfl⟩ := List.getElem?_eq_some_iff.mp hx
      exact ((ih _).cons _).trans (List.getElem_cons_eraseIdx_perm inside)

theorem exists_arrange_of_perm {us xs : List α} (h : us.Perm xs) : ∃ order, arrange order xs = us := by
  induction us generalizing xs with
  | nil =>
    obtain rfl := h.nil_eq
    exact ⟨[], rfl⟩
  | cons u us ih =>
    obtain ⟨k, inside, hk⟩ := List.getElem_of_mem (h.subset List.mem_cons_self)
    have rest : us.Perm (xs.eraseIdx k) := by
      refine List.Perm.cons_inv (a := u) (h.trans ?_)
      rw [← hk]
      exact (List.getElem_cons_eraseIdx_perm inside).symm
    obtain ⟨order, arranged⟩ := ih rest
    refine ⟨k :: order, ?_⟩
    rw [arrange, Nat.mod_eq_of_lt inside, List.getElem?_eq_getElem inside, hk]
    exact congrArg (u :: ·) arranged

/-! ### Merges: lists that are used up play no part -/

/-- The lists that still hold something. -/
def live (xss : List (List α)) : List (List α) := xss.filter fun xs => !xs.isEmpty

theorem live_append (xss yss : List (List α)) : live (xss ++ yss) = live xss ++ live yss := List.filter_append ..

theorem live_cons_cons (x : α) (xs : List α) (xss : List (List α)) : live ((x :: xs) :: xss) = (x :: xs) :: live xss := rfl

theorem live_live (xss : List (List α)) : live (live xss) = live xss := by
  simp only [live, List.filter_filter, Bool.and_self]

theorem flatten_live (xss : List (List α)) : (live xss).flatten = xss.flatten := by
  induction xss with
  | nil => rfl
  | cons xs xss ih =>
    cases xs with
    | nil => exact ih
    | cons x xs => rw [live_cons_cons, List.flatten_cons, List.flatten_cons, ih]

theorem interleave_congr (picks : List Nat) {xss yss : List (List α)} (h : live xss = live yss) :
    interleave picks xss = interleave picks yss := by
  cases picks with
  | nil => rw [interleave, interleave, ← flatten_live xss, h, flatten_live]
  | cons k ks =>
    have h : (xss.filter fun xs => !xs.isEmpty) = yss.filter fun xs => !xs.isEmpty := h
    simp only [interleave, h]

/-- A list that holds something is split off where it stands. -/
theorem split_of_getElem? {xss : List (List α)} {j : Nat} {xs : List α} (h : xss[j]? = some xs) :
    ∃ before after, xss = before ++ xs :: after ∧ before.length = j := by
  obtain ⟨inside, rfl⟩ := List.getElem?_eq_some_iff.mp h
  refine ⟨xss.take j, xss.drop (j + 1), ?_, ?_⟩
  · rw [List.cons_getElem_drop_succ, List.take_append_drop]
  · exact List.length_take_of_le inside.le

theorem set_append_cons (before after : List (List α)) (xs ys : List α) :
    (before ++ xs :: after).set before.length ys = before ++ ys :: after := by
  rw [List.set_append_right _ _ le_rfl, Nat.sub_self, List.set_cons_zero]

theorem live_split {yss before after : List (List α)} {x : α} {xs : List α} (h : live yss = before ++ (x :: xs) :: after) :
    ∃ before' after', yss = before' ++ (x :: xs) :: after' ∧ live before' = before ∧ live after' = after := by
  obtain ⟨before', rest, rfl, hb, hr⟩ := List.filter_eq_append_iff.mp h
  obtain ⟨empty, after', rfl, none, -, ha⟩ := List.filter_eq_cons_iff.mp hr
  refine ⟨before' ++ empty, after', (List.append_assoc ..).symm, ?_, ha⟩
  have gone : live empty = [] := List.filter_eq_nil_iff.mpr none
  rw [live_append, gone, List.append_nil]
  exact hb

theorem Interleaved.congr {xss : List (List α)} {zs : List α} (h : Interleaved xss zs) :
    ∀ yss, live yss = live xss → Interleaved yss zs := by
  induction h with
  | done xss none =>
    intro yss same
    have nothing : live xss = [] := List.filter_eq_nil_iff.mpr fun xs hxs => by rw [none xs hxs]; exact Bool.false_ne_true
    refine .done yss fun ys hys => ?_
    have empty := List.filter_eq_nil_iff.mp (same.trans nothing) ys hys
    exact List.isEmpty_iff.mp (by simpa using empty)
  | take xss j x xs zs hj _ ih =>
    intro yss same
    obtain ⟨before, after, rfl, rfl⟩ := split_of_getElem? hj
    rw [live_append, live_cons_cons] at same
    obtain ⟨before', after', rfl, hb, ha⟩ := live_split same
    refine .take _ before'.length x xs zs ?_ ?_
    · rw [List.getElem?_append_right le_rfl, Nat.sub_self, List.getElem?_cons_zero]
    · refine ih _ ?_
      rw [set_append_cons, set_append_cons, ← List.singleton_append, ← List.singleton_append (l := after), live_append, live_append,
        live_append, live_append, hb, ha]

/-! ### Merges and picks -/

theorem Interleaved.flatten (xss : List (List α)) : Interleaved xss xss.flatten := by
  induction xss with
  | nil => exact .done [] nofun
  | cons xs xss ih =>
    induction xs with
    | nil => exact ih.congr _ rfl
    | cons x xs more => exact .take _ 0 x xs _ rfl more

theorem interleaved_interleave (picks : List Nat) (xss : List (List α)) : Interleaved xss (interleave picks xss) := by
  induction picks generalizing xss with
  | nil => exact .flatten xss
  | cons k ks ih =>
    rw [interleave]
    split
    next x xs picked => exact (Interleaved.take (live xss) _ x xs _ picked (ih _)).congr xss (live_live xss).symm
    next nothing =>
      have used (xs : List α) (hxs : xs ∈ live xss) : False := by
        have inside := Nat.mod_lt k (List.length_pos_of_mem hxs)
        have here : (live xss)[k % (live xss).length] ∈ live xss := List.getElem_mem inside
        have holds := (List.mem_filter.mp here).2
        cases e : (live xss)[k % (live xss).length] with
        | nil => rw [e] at holds; cases holds
        | cons x xs => exact nothing x xs ((List.getElem?_eq_getElem inside).trans (congrArg some e))
      refine (Interleaved.done (live xss) fun xs hxs => (used xs hxs).elim).congr xss (live_live xss).symm

theorem exists_picks_of_interleaved {xss : List (List α)} {ys : List α} (h : Interleaved xss ys) :
    ∃ picks, interleave picks xss = ys := by
  induction h with
  | done xss none =>
    refine ⟨[], ?_⟩
    rw [interleave]
    exact List.flatten_eq_nil_iff.mpr none
  | take xss j x xs ys hj _ ih =>
    obtain ⟨before, after, rfl, rfl⟩ := split_of_getElem? hj
    obtain ⟨picks, merged⟩ := ih
    refine ⟨(live before).length :: picks, ?_⟩
    have split : (List.filter (fun xs : List α => !xs.isEmpty) (before ++ (x :: xs) :: after)) =
        live before ++ (x :: xs) :: live after := live_append ..
    have inside : (live before).length < (live before ++ (x :: xs) :: live after).length := by
      rw [List.length_append, List.length_cons]
      omega
    have front : (live before ++ (x :: xs) :: live after)[(live before).length]? = some (x :: xs) := by
      rw [List.getElem?_append_right le_rfl, Nat.sub_self, List.getElem?_cons_zero]
    simp only [interleave, split, Nat.mod_eq_of_lt inside, front, set_append_cons]
    rw [← merged, set_append_cons]
    refine congrArg (x :: ·) (interleave_congr picks ?_)
    rw [← List.singleton_append, ← List.singleton_append (l := after), live_append, live_append, live_append, live_append,
      live_live, live_live]

end

end Sys2Proof.Machine
end

section
/-! SUPPORT. Each unit's turn of a base tick, case by case (R24, R130, R139, R140, R144, R149, R153). -/

namespace Sys2Proof.Machine

section
variable {s : State} {c : Channel} {ch : ChannelId} {y : Sample} {i : Config.TickInputs}

/-! ### Executor, channels, HOLD_N filter and transmitter -/

theorem exec_eq_afterCommand (c : Instr) (s : State) : exec c s = .next (s.afterCommand c) := by
  obtain ⟨t, e⟩ := exec_answers c s
  rw [State.afterCommand, e]

theorem State.executorTurn_of_idle (h : s.link.requests = [] ∨ 8 ≤ s.link.replies.length) : s.executorTurn = s := by
  unfold State.executorTurn
  split
  · rfl
  next r rest waiting =>
    have full : 8 ≤ s.link.replies.length := h.resolve_left (by rw [waiting]; exact List.cons_ne_nil r rest)
    exact if_neg (Nat.not_lt.mpr full)

theorem State.executorTurn_of_request {r : Request} {rest : List Request} (h : s.link.requests = r :: rest)
    (room : s.link.replies.length < 8) : s.executorTurn = s.afterCommand r.command := by
  unfold State.executorTurn
  rw [h]
  exact if_pos room

theorem State.channelTurn_of_free (h : s.channels[ch] = none) (pins : Vector Sample 20) : s.channelTurn ch pins = s := by
  simp only [State.channelTurn, h]

theorem State.channelTurn_of_noTick (hc : s.channels[ch] = some c) (h : (s.timebases[c.timebase]).tick = .noTick)
    (pins : Vector Sample 20) : s.channelTurn ch pins = s := by
  simp only [State.channelTurn, hc, if_pos h]

theorem State.channelTurn_of_tick (hc : s.channels[ch] = some c) (h : (s.timebases[c.timebase]).tick ≠ .noTick)
    (pins : Vector Sample 20) :
    s.channelTurn ch pins =
      State.tickChannel { s with timebases := s.timebases.set c.timebase (s.timebases[c.timebase]).take } ch pins[c.pin] := by
  simp only [State.channelTurn, hc, if_neg h]

/-- R130: the sample is not the one that the pin hold stands for. -/
theorem pinHoldOf_ne_iff (y : Sample) (p : PinHold) :
    pinHoldOf y ≠ p ↔ (y = .low ∧ p = .deasserted) ∨ (y = .high ∧ p = .asserted) := by
  cases y <;> cases p <;> decide

theorem State.holdTurn_of_agrees (h : pinHoldOf y = s.hold.pinHold) :
    s.holdTurn y = { s with hold := { s.hold with runCount := 0 } } := if_pos h

theorem State.holdTurn_of_counted (h : pinHoldOf y ≠ s.hold.pinHold) (more : s.hold.runCount < 99) :
    s.holdTurn y = { s with hold := { s.hold with runCount := s.hold.runCount + 1 } } := by
  have counted : ¬Config.holdSamples ≤ s.hold.runCount + 1 := by simp only [Config.holdSamples]; omega
  rw [State.holdTurn, if_neg h, if_neg counted]

theorem State.holdTurn_of_last (h : pinHoldOf y ≠ s.hold.pinHold) (last : 99 ≤ s.hold.runCount) :
    s.holdTurn y = s.changePinHold := by
  have reached : Config.holdSamples ≤ s.hold.runCount + 1 := by simp only [Config.holdSamples]; omega
  rw [State.holdTurn, if_neg h, if_pos reached]

theorem State.transmitterTurn_of_free (h : s.link.transmission = none) (gapFirst : Bool) :
    s.transmitterTurn gapFirst = { s with link := s.link.transmitNext gapFirst } := by
  simp only [State.transmitterTurn, h]

theorem State.transmitterTurn_of_sent {w : Transmission} (h : s.link.transmission = some w)
    (sent : 500 * w.bytes.length ≤ w.elapsed + 1) (gapFirst : Bool) :
    s.transmitterTurn gapFirst = { s with link := s.link.transmitNext gapFirst } := by
  have sent : Config.characterTicks * w.bytes.length ≤ w.elapsed + 1 := sent
  simp only [State.transmitterTurn, h, if_pos sent]

theorem State.transmitterTurn_of_sending {w : Transmission} (h : s.link.transmission = some w)
    (more : w.elapsed + 1 < 500 * w.bytes.length) (gapFirst : Bool) :
    s.transmitterTurn gapFirst =
      { s with link := { s.link with transmission := some { w with elapsed := w.elapsed + 1 } } } := by
  have more : ¬Config.characterTicks * w.bytes.length ≤ w.elapsed + 1 := Nat.not_le.mpr more
  simp only [State.transmitterTurn, h, if_neg more]

/-! ### The receiver -/

theorem State.countGap_of_hunting (h : s.link.receiver = .hunting) : s.countGap = s := by
  simp only [State.countGap, h]

theorem State.countGap_of_frame (h : s.link.receiver ≠ .hunting) :
    s.countGap = if 100001 ≤ s.link.gapTimer + 1 then s.gapExpires
      else { s with link := { s.link with gapTimer := s.link.gapTimer + 1 } } := by
  unfold State.countGap
  split
  next hunting => exact absurd hunting h
  next => rfl

theorem State.sampleCharacter_of_idle (h : s.link.sampler = .idle) (y : Sample) :
    s.sampleCharacter y = if y = .low then s.sampling (.sampling 0 []) else s := by
  simp only [State.sampleCharacter, h]

theorem State.sampleCharacter_of_waitHigh (h : s.link.sampler = .waitHigh) (y : Sample) :
    s.sampleCharacter y = if y = .high then s.sampling .idle else s := by
  simp only [State.sampleCharacter, h]

section
variable {age : Nat} {bits : List Bool}

/-- R139: the samples of the data bits. -/
theorem State.sampleCharacter_of_bit (h : s.link.sampler = .sampling age bits) (early : age + 1 < 475)
    (data : ∃ k, age + 1 = 75 + 50 * k) (y : Sample) :
    s.sampleCharacter y = s.sampling (.sampling (age + 1) (bits ++ [decide (y = .high)])) := by
  have early : ¬Config.stopBitTick ≤ age + 1 := Nat.not_le.mpr early
  have data : Config.firstBitTick ≤ age + 1 ∧ (age + 1 - Config.firstBitTick) % Config.bitTicks = 0 := by
    obtain ⟨k, hk⟩ := data
    simp only [Config.firstBitTick, Config.bitTicks]
    omega
  simp only [State.sampleCharacter, h, if_neg early, if_pos data]

theorem State.sampleCharacter_of_between (h : s.link.sampler = .sampling age bits) (early : age + 1 < 475)
    (between : ∀ k, age + 1 ≠ 75 + 50 * k) (y : Sample) : s.sampleCharacter y = s.sampling (.sampling (age + 1) bits) := by
  have early : ¬Config.stopBitTick ≤ age + 1 := Nat.not_le.mpr early
  have between : ¬(Config.firstBitTick ≤ age + 1 ∧ (age + 1 - Config.firstBitTick) % Config.bitTicks = 0) := by
    have away := between ((age + 1 - 75) / 50)
    simp only [Config.firstBitTick, Config.bitTicks]
    omega
  simp only [State.sampleCharacter, h, if_neg early, if_neg between]

/-- R139, R142: the sample of the stop bit. -/
theorem State.sampleCharacter_of_stop (h : s.link.sampler = .sampling age bits) (stop : 475 ≤ age + 1) (y : Sample) :
    s.sampleCharacter y =
      if y = .high then (s.sampling .idle).receiveByte (BitVec.ofNat 8 (byteOfBits bits)) else s.framingError := by
  have stop : Config.stopBitTick ≤ age + 1 := stop
  simp only [State.sampleCharacter, h, if_pos stop]

end

theorem byteOfBits_testBit (bits : List Bool) (n : Nat) : (byteOfBits bits).testBit n = bits.getD n false := by
  induction bits generalizing n with
  | nil => exact Nat.zero_testBit n
  | cons b bits ih =>
    have bit : byteOfBits (b :: bits) = Nat.bit b (byteOfBits bits) := by
      rw [byteOfBits, Nat.bit_val, Nat.add_comm]
    rw [bit]
    cases n with
    | zero => exact Nat.testBit_bit_zero ..
    | succ n => exact (Nat.testBit_bit_succ ..).trans (ih n)

/-- R139: eight data bits, least significant first, are the byte's. -/
theorem byteOfBits_of_byte (b : Byte) : BitVec.ofNat 8 (byteOfBits ((List.range 8).map b.getLsbD)) = b := by
  refine BitVec.eq_of_getLsbD_eq fun n hn => ?_
  have inside : n < ((List.range 8).map b.getLsbD).length := by simpa using hn
  rw [BitVec.getLsbD_ofNat, decide_eq_true hn, Bool.true_and, byteOfBits_testBit, List.getD_eq_getElem _ _ inside,
    List.getElem_map, List.getElem_range]

/-- R140. -/
theorem State.detectBreak_of_low (s : State) (h : y = .low) :
    s.detectBreak y = { s with link := { s.link with lowRun := min (s.link.lowRun + 1) 5000 } } := by
  subst h
  rfl

theorem State.detectBreak_of_high (s : State) (h : y = .high) :
    s.detectBreak y =
      if 5000 ≤ s.link.lowRun then State.linkReset { s with link := { s.link with lowRun := 0 } }
      else { s with link := { s.link with lowRun := 0 } } := by
  subst h
  rfl

end

end Sys2Proof.Machine
end

section
/-! SUPPORT. The order of the units and the rounds of a base tick (R60, R159), and what of the state a unit's turn leaves as it was. -/

namespace Sys2Proof.Machine

/-! ### The order of the units -/

section
variable {s : State} {i : Config.TickInputs}

theorem State.unitOrder_perm (s : State) (i : Config.TickInputs) : (s.unitOrder i).Perm tickUnits := by
  have arranged : (arrange i.order tickUnits).Perm tickUnits := arrange_perm _ _
  simp only [State.unitOrder]
  split
  · have inside : TickUnit.transmitter ∈ arrange i.order tickUnits := arranged.mem_iff.mpr (by decide)
    refine List.Perm.trans ?_ arranged
    exact (List.perm_append_singleton ..).trans (List.perm_cons_erase inside).symm
  · exact arranged

theorem transmitterBetween_iff (us : List TickUnit) :
    transmitterBetween us = true ↔ us.idxOf .executor < us.idxOf .transmitter ∧ us.idxOf .transmitter < us.idxOf .receiver :=
  decide_eq_true_iff

theorem State.breakEnds_iff (s : State) (y : Sample) : s.breakEnds y = true ↔ y = .high ∧ 5000 ≤ s.link.lowRun :=
  decide_eq_true_iff

theorem State.unitOrder_of_arranged (h : i.lrx = .low ∨ s.link.lowRun < 5000 ∨
      ¬((arrange i.order tickUnits).idxOf .executor < (arrange i.order tickUnits).idxOf .transmitter ∧
        (arrange i.order tickUnits).idxOf .transmitter < (arrange i.order tickUnits).idxOf .receiver)) :
    s.unitOrder i = arrange i.order tickUnits := by
  have kept : ¬(s.breakEnds i.lrx = true ∧ transmitterBetween (arrange i.order tickUnits) = true) := by
    rw [State.breakEnds_iff, transmitterBetween_iff]
    rintro ⟨⟨high, long⟩, between⟩
    rcases h with low | short | other
    · exact absurd (low.symm.trans high) (by decide)
    · exact absurd short (Nat.not_lt.mpr long)
    · exact other between
  exact if_neg kept

/-- R159: the link reset of a break comes between the executor and the transmitter. -/
theorem State.unitOrder_of_breakEnds (high : i.lrx = .high) (long : 5000 ≤ s.link.lowRun)
    (after : (s.unitOrder i).idxOf .executor < (s.unitOrder i).idxOf .transmitter) :
    (s.unitOrder i).idxOf .receiver < (s.unitOrder i).idxOf .transmitter := by
  by_cases between : transmitterBetween (arrange i.order tickUnits) = true
  · have last : s.unitOrder i = (arrange i.order tickUnits).erase .transmitter ++ [.transmitter] :=
      if_pos ⟨(s.breakEnds_iff _).mpr ⟨high, long⟩, between⟩
    have distinct : (arrange i.order tickUnits).Nodup := (arrange_perm _ _).nodup_iff.mpr (by decide)
    have receiver : TickUnit.receiver ∈ (arrange i.order tickUnits).erase .transmitter :=
      (List.mem_erase_of_ne (by decide)).mpr ((arrange_perm _ _).mem_iff.mpr (by decide))
    have transmitter : TickUnit.transmitter ∉ (arrange i.order tickUnits).erase .transmitter := distinct.not_mem_erase
    rw [last, List.idxOf_append_of_mem receiver, List.idxOf_append_of_notMem transmitter]
    exact Nat.lt_add_right _ (List.idxOf_lt_length_of_mem receiver)
  · rw [State.unitOrder_of_arranged (.inr (.inr (mt (transmitterBetween_iff _).mpr between)))] at after ⊢
    have receiver : TickUnit.receiver ∈ arrange i.order tickUnits := (arrange_perm _ _).mem_iff.mpr (by decide)
    have apart : (arrange i.order tickUnits).idxOf .receiver ≠ (arrange i.order tickUnits).idxOf .transmitter :=
      fun same => absurd ((List.idxOf_inj receiver).mp same) (by decide)
    rw [transmitterBetween_iff] at between
    omega

end

/-! ### What a turn leaves as it was -/

/-- What of the state the units' turns leave as it was, but for the HOLD_N filter's own. -/
structure TickFrame where
  time : Time
  script : List Config.TickInputs
  pending : List Instr
  inColdReset : Bool
  runCount : Nat
  pinHold : PinHold

def State.frame (s : State) : TickFrame :=
  { time := s.time, script := s.script, pending := s.pending, inColdReset := s.inColdReset, runCount := s.hold.runCount,
    pinHold := s.hold.pinHold }

/-- R130: the HOLD_N filter takes one sample. -/
def TickFrame.filtered (f : TickFrame) (y : Sample) : TickFrame :=
  if pinHoldOf y = f.pinHold then { f with runCount := 0 }
  else if 99 ≤ f.runCount then { f with runCount := 0, pinHold := pinHoldOf y }
  else { f with runCount := f.runCount + 1 }

section
variable {s t : State} {i : Config.TickInputs}

theorem State.frame_of_linkOnly (h : s.LinkOnly t) : t.frame = s.frame := by
  rw [h]
  rfl

theorem State.startOutput_frame (s : State) (f : StartFields) (c : Channel) (o : OutputRole) :
    (s.startOutput f c o).frame = s.frame := by
  unfold State.startOutput
  split <;> rfl

theorem State.enterHold_frame (s : State) (cause : HoldCause) : (s.enterHold cause).frame = s.frame := by
  simp only [State.frame, State.enterHold_time, State.enterHold_script, State.enterHold_pending, State.enterHold_inColdReset,
    State.enterHold_hold]

theorem State.Effect.frame (h : s.Effect t) : t.frame = s.frame := by
  cases h
  case holdEntry => exact State.enterHold_frame _ _
  case startOutput => exact s.startOutput_frame _ _ _
  all_goals rfl

theorem State.request_frame {o : List Byte → State → Answer} (ho : o ∈ owners) (s : State) (r : Request) :
    (s.request r o).frame = s.frame := by
  have arrived := State.frame_of_linkOnly (s.arrived_linkOnly r)
  refine State.request_keeps (P := fun t => t.frame = s.frame) rfl arrived fun _ => ?_
  cases answer : o r.body (s.taken r) with
  | refuse st => exact arrived
  | succeed u results => exact (owner_effect ho answer).frame.trans arrived

/-- Every request's command leaves the frame. -/
theorem Request.exec_frame {r : Request} (e : exec r.command s = .next t) : t.frame = s.frame := by
  unfold Request.command at e
  split at e
  case h_27 =>
    cases e
    split
    · rfl
    · exact State.frame_of_linkOnly (s.request_refuse_linkOnly _ _)
  all_goals
    cases e
    exact State.request_frame (by simp [owners]) s _

theorem State.executorTurn_frame (s : State) : s.executorTurn.frame = s.frame := by
  unfold State.executorTurn
  split
  · rfl
  · split
    · exact Request.exec_frame (exec_eq_afterCommand _ s)
    · rfl

theorem State.channelTurn_frame (s : State) (ch : ChannelId) (pins : Vector Sample 20) :
    (s.channelTurn ch pins).frame = s.frame := by
  unfold State.channelTurn
  split
  · rfl
  · split
    · rfl
    next c _ _ =>
      have plays := State.Plays.tickChannel
        { s with timebases := s.timebases.set c.timebase (s.timebases[c.timebase]).take } ch pins[c.pin]
      simp only [State.frame, plays.time, plays.script, plays.pending, plays.inColdReset, plays.hold]

theorem State.changePinHold_frame {y : Sample} (h : pinHoldOf y ≠ s.hold.pinHold) :
    s.changePinHold.frame = { s.frame with runCount := 0, pinHold := pinHoldOf y } := by
  unfold State.changePinHold
  rcases (pinHoldOf_ne_iff y _).mp h with ⟨rfl, hp⟩ | ⟨rfl, hp⟩
  · simp only [hp]
    split
    · rfl
    · exact State.enterHold_frame _ _
  · simp only [hp]
    split <;> rfl

theorem State.holdTurn_frame (s : State) (y : Sample) : (s.holdTurn y).frame = s.frame.filtered y := by
  by_cases agrees : pinHoldOf y = s.hold.pinHold
  · rw [State.holdTurn_of_agrees agrees, TickFrame.filtered, if_pos (show pinHoldOf y = s.frame.pinHold from agrees)]
    rfl
  · rw [TickFrame.filtered, if_neg (show ¬pinHoldOf y = s.frame.pinHold from agrees)]
    by_cases last : 99 ≤ s.hold.runCount
    · rw [State.holdTurn_of_last agrees last, State.changePinHold_frame agrees, if_pos (show 99 ≤ s.frame.runCount from last)]
    · rw [State.holdTurn_of_counted agrees (Nat.not_le.mp last), if_neg (show ¬99 ≤ s.frame.runCount from last)]
      rfl

/-! ### Rounds -/

theorem State.linkStep_frame (s : State) (x : LinkStep) : (s.linkStep i x).frame = s.frame := by
  cases x with
  | append b => rfl
  | receive => exact State.frame_of_linkOnly (s.receiverTurn_linkOnly _)
  | transmit => exact State.frame_of_linkOnly (s.transmitterTurn_linkOnly _)

theorem Round.settle_frame (w : Round) : (w.settle i).state.frame = w.state.frame := by
  have all (xs : List LinkStep) : ∀ s : State, (xs.foldl (State.linkStep i) s).frame = s.frame := by
    induction xs with
    | nil => exact fun _ => rfl
    | cons x xs ih => exact fun s => (ih _).trans (s.linkStep_frame x)
  exact all _ _

theorem Round.turn_frame (w : Round) {u : TickUnit} (h : u ≠ .holdFilter) : (w.turn i u).state.frame = w.state.frame := by
  cases u with
  | executor => exact (State.executorTurn_frame _).trans w.settle_frame
  | holdFilter => exact absurd rfl h
  | receiver => rfl
  | transmitter => rfl
  | channel ch => exact State.channelTurn_frame { w.state with link := Link.cold } ch i.pins

theorem Round.turns_frame (us : List TickUnit) (h : TickUnit.holdFilter ∉ us) (w : Round) :
    (us.foldl (Round.turn i) w).state.frame = w.state.frame := by
  induction us generalizing w with
  | nil => rfl
  | cons u us ih =>
    rw [List.mem_cons, not_or] at h
    exact (ih h.2 _).trans (w.turn_frame (Ne.symm h.1))

/-- The HOLD_N filter takes one turn in a base tick, and no other turn touches the frame. -/
theorem State.work_frame (s : State) (i : Config.TickInputs) :
    (s.work i).frame = ({ s.frame with time := s.time + 1 } : TickFrame).filtered i.holdN := by
  have order := s.unitOrder_perm i
  have once : (s.unitOrder i).Nodup := order.nodup_iff.mpr (by decide)
  obtain ⟨before, after, split⟩ := List.append_of_mem (order.mem_iff.mpr (by decide : TickUnit.holdFilter ∈ tickUnits))
  rw [split] at once
  have notBefore : TickUnit.holdFilter ∉ before := fun h => (List.nodup_append.mp once).2.2 _ h _ List.mem_cons_self rfl
  have notAfter : TickUnit.holdFilter ∉ after := (List.nodup_cons.mp (List.nodup_append.mp once).2.1).1
  have first := Round.turns_frame (i := i) before notBefore
    { state := s.settleGap.advanceClock, linkTurns := [], raised := [], picks := i.reportOrder }
  rw [State.work, split, List.foldl_append, List.foldl_cons]
  refine (State.frame_of_linkOnly (State.settleGap_linkOnly _)).trans ?_
  rw [Round.settle_frame, Round.turns_frame after notAfter]
  refine (State.holdTurn_frame _ i.holdN).trans ?_
  rw [Round.settle_frame, first]
  rfl

end

end Sys2Proof.Machine
end

section
/-! SUPPORT. The statement on the base tick (R17, R19, R23, R60, R130, R159, R161). -/

namespace Sys2Proof.Machine

section
variable {s a : State} {i : Config.TickInputs}

/-! ### One base tick -/

/-- On an empty queue a step is a base tick with what it meets from outside. -/
theorem step_of_meets (empty : s.pending = []) (h : s.Meets i a) : step s = .next (a.tickWith i) := by
  rw [step, empty]
  refine congrArg Host.Outcome.next ?_
  rcases h with ⟨rest, hs, rfl⟩ | ⟨hs, rfl, rfl⟩
  · simp only [State.baseTick, hs]
  · simp only [State.baseTick, hs]

/-- The base tick of the working part counts the run of low RESET_N. -/
theorem State.tickWith_of_work (power : i.power = true) (cold : s.inColdReset = false)
    (runs : i.resetN = .high ∨ s.resetRun < 99) :
    s.tickWith i = State.work { s with resetRun := if i.resetN = .low then s.resetRun + 1 else 0 } i := by
  simp only [State.tickWith, power, cold, Bool.true_eq_false, Bool.false_eq_true, if_false]
  cases low : i.resetN with
  | high => rfl
  | low =>
    have short : ¬Config.resetSamples ≤ s.resetRun + 1 := by
      have := runs.resolve_left (by rw [low]; decide)
      simp only [Config.resetSamples]
      omega
    simp only [if_neg short, if_true]

theorem State.tickWith_of_reset (power : i.power = true) (cold : s.inColdReset = false) (low : i.resetN = .low)
    (long : 99 ≤ s.resetRun) : s.tickWith i = s.enterColdReset := by
  have reached : Config.resetSamples ≤ s.resetRun + 1 := by simp only [Config.resetSamples]; omega
  simp only [State.tickWith, power, cold, low, Bool.true_eq_false, Bool.false_eq_true, if_false, if_pos reached]

theorem State.tickWith_of_unpowered (power : i.power = false) : s.tickWith i = s.enterColdReset := if_pos power

theorem State.tickWith_of_cold (power : i.power = true) (cold : s.inColdReset = true) :
    s.tickWith i = if i.resetN = .high then s.endColdReset i.holdN i.lrx else s := by
  simp only [State.tickWith, power, cold, Bool.true_eq_false, if_false, if_true]

/-- What the base tick met is used up of the script alone. -/
theorem State.Meets.eq (h : s.Meets i a) : a = { s with script := a.script, unscripted := a.unscripted } := by
  rcases h with ⟨rest, -, rfl⟩ | ⟨-, -, rfl⟩ <;> rfl

theorem State.enterColdReset_of_empty (empty : s.pending = []) :
    s.enterColdReset = { State.cold with inColdReset := true, script := s.script, unscripted := s.unscripted } := by
  rw [State.enterColdReset, State.toCold, empty]
  rfl

/-- R23: one base tick of a timebase. -/
theorem Timebase.advance_eq (q : Timebase) :
    q.advance = if q.phase + 1 < q.divisor then { q with phase := q.phase + 1, tick := .noTick }
      else { q with phase := 0, tick := .due } := by
  unfold Timebase.advance
  by_cases h : q.divisor ≤ q.phase + 1
  · rw [if_pos h, if_neg (Nat.not_lt.mpr h)]
  · rw [if_neg h, if_pos (Nat.not_le.mp h)]

theorem State.advanceClock_eq (s : State) :
    s.advanceClock = { s with time := s.time + 1, timebases := s.timebases.map Timebase.advance } := by
  have counted : (Vector.ofFn fun t : TimebaseId => s.timebases[t].advance) = s.timebases.map Timebase.advance := by
    ext1 n hn
    rw [Vector.getElem_ofFn, Vector.getElem_map]
    rfl
  rw [State.advanceClock, counted]

theorem TickFrame.filtered_of_agrees {f : TickFrame} {y : Sample} (h : pinHoldOf y = f.pinHold) :
    f.filtered y = { f with runCount := 0 } := if_pos h

theorem TickFrame.filtered_of_counted {f : TickFrame} {y : Sample} (h : pinHoldOf y ≠ f.pinHold) (more : ¬99 ≤ f.runCount) :
    f.filtered y = { f with runCount := f.runCount + 1 } := (if_neg h).trans (if_neg more)

theorem TickFrame.filtered_of_last {f : TickFrame} {y : Sample} (h : pinHoldOf y ≠ f.pinHold) (last : 99 ≤ f.runCount) :
    f.filtered y = { f with runCount := 0, pinHold := pinHoldOf y } := (if_neg h).trans (if_pos last)

theorem pinHoldOf_eq (y : Sample) : pinHoldOf y = if y = .low then .asserted else .deasserted := by cases y <;> rfl

/-- R130, R161: what a base tick of the working part does to the frame. -/
theorem step_frame (empty : s.pending = []) (cold : s.inColdReset = false)
    (script : s.script.head? = some i ∨ (s.script = [] ∧ i = Config.freeInputs s.unscripted)) (power : i.power = true)
    (high : i.resetN = .high) :
    ∃ t, step s = .next t ∧
      t.frame = ({ s.frame with time := s.time + 1, script := s.script.tail } : TickFrame).filtered i.holdN := by
  obtain ⟨a, meets, time, hscript, pending, cold', hold⟩ : ∃ a, s.Meets i a ∧ a.time = s.time ∧ a.script = s.script.tail ∧
      a.pending = s.pending ∧ a.inColdReset = s.inColdReset ∧ a.hold = s.hold := by
    rcases script with front | ⟨none, free⟩
    · obtain ⟨rest, hs⟩ := List.head?_eq_some_iff.mp front
      exact ⟨_, .inl ⟨rest, hs, rfl⟩, rfl, by rw [hs]; rfl, rfl, rfl, rfl⟩
    · exact ⟨_, .inr ⟨none, free, rfl⟩, rfl, by rw [none]; rfl, rfl, rfl, rfl⟩
  refine ⟨_, step_of_meets empty meets, ?_⟩
  rw [State.tickWith_of_work power (cold'.trans cold) (.inl high), State.work_frame]
  simp only [State.frame, time, hscript, pending, cold', hold]

/-! ### The rounds and the turns -/

theorem Round.turn_channel (w : Round) (ch : ChannelId) :
    ∃ (t : State) (bs : List ReportBody),
      (∀ k : Link, State.turn i { w.state with link := k } (.channel ch) = { t with link := bs.foldl Link.append k }) ∧
      w.turn i (.channel ch) =
        { w with state := { t with link := w.state.link }, raised := w.raised ++ [bs.map LinkStep.append] } := by
  refine ⟨w.state.channelTurn ch i.pins,
    (State.channelTurn { w.state with link := Link.cold } ch i.pins).link.reports.map Report.body,
    fun k => w.state.channelTurn_raises ch i.pins k, ?_⟩
  have alone : { State.channelTurn { w.state with link := Link.cold } ch i.pins with link := w.state.link } =
      { w.state.channelTurn ch i.pins with link := w.state.link } :=
    congrArg (fun t : State => { t with link := w.state.link }) (w.state.channelTurn_raises ch i.pins Link.cold)
  rw [Round.turn, List.map_map]
  exact congrArg (fun t : State => ({ w with
    state := t
    raised := w.raised ++ [(State.channelTurn { w.state with link := Link.cold } ch i.pins).link.reports.map fun r =>
      LinkStep.append r.body] } : Round)) alone

theorem State.channelTurn_exec {c : Channel} {ch : ChannelId} (cold : s.inColdReset = false) (hc : s.channels[ch] = some c)
    (ticks : (s.timebases[c.timebase]).tick ≠ .noTick) (pins : Vector Sample 20) :
    exec (.channelTick ch pins[c.pin])
      { s with timebases := s.timebases.set c.timebase { s.timebases[c.timebase] with tick := .taken } } =
      .next (s.channelTurn ch pins) := by
  rw [State.channelTurn_of_tick hc ticks]
  exact exec_channelTick_of_out
    (s := { s with timebases := s.timebases.set c.timebase { s.timebases[c.timebase] with tick := .taken } }) cold

theorem State.inColdReset_of_linkOnly {t : State} (h : s.LinkOnly t) (cold : s.inColdReset = false) : t.inColdReset = false := by
  rw [h]
  exact cold

end

/-- Settles O53. The frame follows each unit's one turn; the orders are those of picks; and each turn is read off case by case. -/
theorem baseTickCounts : Obligations.BaseTickCounts := by
  refine ⟨fun i s empty cold script power high => ?_, fun i s a empty meets => ?_,
    fun us => ⟨exists_arrange_of_perm, fun ⟨order, h⟩ => h ▸ arrange_perm order tickUnits⟩,
    fun i s => ⟨s.unitOrder_perm i, State.unitOrder_of_arranged, State.unitOrder_of_breakEnds⟩,
    fun xss ys => ⟨exists_picks_of_interleaved, fun ⟨picks, h⟩ => h ▸ interleaved_interleave picks xss⟩,
    fun i w => ?_, fun i s cold => ⟨⟨State.executorTurn_of_idle, fun r rest waiting room => ?_⟩,
      fun ch => ⟨fun free => State.channelTurn_of_free free i.pins, fun c hc =>
        ⟨fun still => State.channelTurn_of_noTick hc still i.pins, fun ticks => State.channelTurn_exec cold hc ticks i.pins⟩⟩,
      ⟨fun agrees => ?_, fun disagrees more => ?_, fun disagrees last => ?_⟩,
      ⟨fun free => ?_, fun w sending => ⟨fun sent => ?_, fun more => ?_⟩⟩, ?_⟩⟩
  · intro disagrees
    obtain ⟨t, stepped, frame⟩ := step_frame empty cold script power high
    have differs : pinHoldOf i.holdN ≠ s.hold.pinHold ↔ disagrees := pinHoldOf_ne_iff ..
    by_cases agrees : pinHoldOf i.holdN = s.hold.pinHold
    · rw [TickFrame.filtered_of_agrees agrees] at frame
      simp only [State.frame, TickFrame.mk.injEq] at frame
      obtain ⟨time, hscript, pending, cold', runCount, pinHold⟩ := frame
      have never : ¬disagrees := mt differs.mpr (not_not.mpr agrees)
      exact ⟨t, stepped, time, hscript, pending.trans empty, cold'.trans cold, fun _ => ⟨runCount, pinHold⟩,
        fun d => absurd d never, fun d => absurd d never⟩
    · have always : disagrees := differs.mp agrees
      by_cases last : 99 ≤ s.hold.runCount
      · rw [TickFrame.filtered_of_last agrees last] at frame
        simp only [State.frame, TickFrame.mk.injEq] at frame
        obtain ⟨time, hscript, pending, cold', runCount, pinHold⟩ := frame
        exact ⟨t, stepped, time, hscript, pending.trans empty, cold'.trans cold, fun d => absurd always d,
          fun _ more => absurd last (Nat.not_le.mpr more), fun _ _ => ⟨runCount, pinHold.trans (pinHoldOf_eq _)⟩⟩
      · rw [TickFrame.filtered_of_counted agrees last] at frame
        simp only [State.frame, TickFrame.mk.injEq] at frame
        obtain ⟨time, hscript, pending, cold', runCount, pinHold⟩ := frame
        exact ⟨t, stepped, time, hscript, pending.trans empty, cold'.trans cold, fun d => absurd always d,
          fun _ _ => ⟨runCount, pinHold⟩, fun _ reached => absurd reached last⟩
  · intro reset
    rw [step_of_meets empty meets]
    obtain ⟨script, unscripted, rfl⟩ : ∃ x n, a = { s with script := x, unscripted := n } := ⟨_, _, meets.eq⟩
    have empty' : ({ s with script := script, unscripted := unscripted } : State).pending = [] := empty
    refine ⟨fun power => ?_, fun power cold => ?_, fun power cold => ?_⟩
    · rw [State.tickWith_of_unpowered power, State.enterColdReset_of_empty empty']
    · have cold' : ({ s with script := script, unscripted := unscripted } : State).inColdReset = true := cold
      rw [State.tickWith_of_cold power cold']
      exact ⟨fun low => by rw [if_neg (by rw [low]; decide)], fun high => by rw [if_pos high]; rfl⟩
    · have cold' : ({ s with script := script, unscripted := unscripted } : State).inColdReset = false := cold
      refine ⟨fun low long => ?_, fun runs => ?_⟩
      · have long' : 99 ≤ ({ s with script := script, unscripted := unscripted } : State).resetRun := long
        rw [State.tickWith_of_reset power cold' low long', State.enterColdReset_of_empty empty']
      · intro counted b w
        have runs' : i.resetN = .high ∨ ({ s with script := script, unscripted := unscripted } : State).resetRun < 99 := runs
        have counts : Timebase.advance = counted := funext Timebase.advance_eq
        rw [State.tickWith_of_work power cold' runs', State.work, State.advanceClock_eq, counts]
        rfl
  · intro ys one settled
    have same : one = State.linkStep i := by
      funext s y
      cases y <;> rfl
    have settles : w.settle i = settled := by
      simp only [settled, same]
      rfl
    refine ⟨settles, ?_, ?_, rfl, rfl, fun ch => w.turn_channel ch⟩
    · rw [← settles]
      rfl
    · rw [← settles]
      rfl
  · rw [exec_eq_afterCommand, ← State.executorTurn_of_request waiting room]
    rfl
  · exact State.holdTurn_of_agrees (not_not.mp (mt (pinHoldOf_ne_iff ..).mp agrees))
  · exact State.holdTurn_of_counted ((pinHoldOf_ne_iff ..).mpr disagrees) more
  · rw [exec_pinHoldChange, State.working_of_out cold, ← State.holdTurn_of_last ((pinHoldOf_ne_iff ..).mpr disagrees) last]
    rfl
  · rw [exec_transmitterFree_of_out cold, ← State.transmitterTurn_of_free free]
    rfl
  · rw [exec_transmitterFree_of_out cold, ← State.transmitterTurn_of_sent sending sent]
    rfl
  · exact State.transmitterTurn_of_sending sending more i.gapFirst
  · intro t
    have cold' : s.countGap.inColdReset = false := State.inColdReset_of_linkOnly s.countGap_linkOnly cold
    have cold'' : (s.countGap.sampleCharacter i.lrx).inColdReset = false :=
      State.inColdReset_of_linkOnly (s.countGap.sampleCharacter_linkOnly i.lrx) cold'
    refine ⟨s.countGap, s.countGap.sampleCharacter i.lrx, State.countGap_of_hunting, fun frame => ⟨fun more => ?_, fun last => ?_⟩,
      ⟨fun idle => State.sampleCharacter_of_idle idle i.lrx, fun waiting => State.sampleCharacter_of_waitHigh waiting i.lrx,
        fun age bits sampling => ⟨fun early data => State.sampleCharacter_of_bit sampling early data i.lrx,
          fun early between => State.sampleCharacter_of_between sampling early between i.lrx, fun stop low => ?_,
          fun b stop high data => ?_⟩⟩, fun low => ?_, fun high => ?_⟩
    · rw [State.countGap_of_frame frame, if_neg (by omega)]
    · rw [exec_gapTimeout_of_out cold, State.countGap_of_frame frame, if_pos (by omega)]
    · rw [exec_framingError_of_out cold', State.sampleCharacter_of_stop sampling stop, if_neg (by rw [low]; decide)]
    · rw [State.sampleCharacter_of_stop sampling stop, if_pos high, data, byteOfBits_of_byte]
      exact exec_byteArrives_of_out (s := s.countGap.sampling .idle) cold' b
    · exact State.detectBreak_of_low _ low
    · intro z
      have turn : t = if 5000 ≤ (s.countGap.sampleCharacter i.lrx).link.lowRun then z.linkReset else z :=
        State.detectBreak_of_high _ high
      rw [turn]
      refine ⟨fun short => if_neg (Nat.not_le.mpr short), fun long => ?_⟩
      rw [if_pos long]
      exact exec_linkReset_of_out (s := z) cold''

end Sys2Proof.Machine
end
